-- ==== Sys2Proof/Word.lean ====
section
/-! DEFINITION. Word.lean: bytes, byte strings and the two wide words of a frame (00_scope.md R15). -/

namespace Sys2Proof

/-- A byte, 0..255, bit 0 the least significant (R15). -/
abbrev Byte := BitVec 8

/-- A byte string: a frame, a payload, a packet buffer. Element 0 is the first byte on the wire (R15, R60). -/
abbrev Frame := List Byte

/-- The 16-bit checksum (R97, R130). -/
abbrev Word16 := BitVec 16

/-- A 32-bit sequence number of variant D (R11, R26). -/
abbrev Seq32 := BitVec 32

end Sys2Proof
end

