-- ==== Sys2Proof/Config.lean ====
section
/-! DEFINITION. Config.lean: what is fixed for an instance (00_scope.md R7 to R12; 10_state.md R36) and the free values
the spec leaves unspecified (70_reset_and_hazards.md R312; 45_retransmission_timer.md R254). -/

namespace Sys2Proof

/-- The four protocol variants (R1, R7). -/
inductive Variant where
  | a   -- checksum-only stop-and-wait
  | b   -- alternating bit
  | c   -- timer-driven stop-and-wait, 8-bit counter
  | d   -- Go-Back-N
  deriving DecidableEq, Repr

/-- The two roles (R8). -/
inductive Role where
  | sender
  | receiver
  deriving DecidableEq, Repr

/-- The variants whose sender owns a retransmission timer (R250); the bit `v` of the key `01v1000` (R116). -/
inductive TimedVariant where
  | c
  | d
  deriving DecidableEq, Repr

/-- What a variant-A sender does with a valid frame that is neither ACK nor NAK: the parameter `SA_UNRECOGNIZED`
(93_implementation_defined.md U4). -/
inductive Unrecognized where
  | retransmit
  | discard
  deriving DecidableEq, Repr

/-- The operand `cfg` of RESET (R310). `n` matters only for a variant-D sender, `timeoutTicks` only for a sender of
variant C or D. -/
structure Cfg where
  variant : Variant
  role : Role
  mss : Nat
  n : Nat
  timeoutTicks : Nat
  deriving DecidableEq, Repr

namespace Config

/-- DESIGN CHOICE (log entry 2; unsafe): the configuration `State.reset` stands for. The spec leaves every component
open (R7 to R12); 1 tick is the value R262 offers for a free expiry, 1 the least legal window. -/
def resetCfg : Cfg := { variant := .a, role := .sender, mss := 512, n := 1, timeoutTicks := 1 }

/-- The default of U4 and the branch R162 (f) writes. -/
def saUnrecognizedDefault : Unrecognized := .retransmit

/-- FREE VALUE (log entry 3): what `last_packet` holds after RESET, "unspecified" (R310, R312, U6). -/
opaque freeFrame : Nat → Frame

/-- FREE VALUE (log entry 4): what `remaining` holds after RESET and after TMR.CANCEL, "unspecified" (R312, R254). -/
opaque freeRemaining : Nat → Nat

end Config

end Sys2Proof
end

