-- ==== Sys2Proof/Syntax.lean ====
section
/-! DEFINITION. Syntax.lean: the operations of the block, one constructor per row of spec/opcode_table.json
(30_encoding.md R98, R114), and the two kinds of thing the input port presents. -/

namespace Sys2Proof

/-- One constructor per row of spec/opcode_table.json.

A packet row is a frame of that variant's format and kind as it arrives at the RX port: its header fields and payload
(R90 to R92, R98). The `checksum` is the field's stored value, right or wrong (R97); no field says which variant the
frame is of (R100).

In an operation row `r` and `v` are the key's role and variant (R116). -/
inductive Instr where
  -- packets, format A (R90)
  | aData (checksum : Word16) (payload : Frame)
  | aAck (checksum : Word16) (payload : Frame)
  | aNak (checksum : Word16) (payload : Frame)
  -- packets, format BC (R91); the sequence byte is taken as it is (R102)
  | bData (seq : Byte) (checksum : Word16) (payload : Frame)
  | bAck (seq : Byte) (checksum : Word16) (payload : Frame)
  | bNak (seq : Byte) (checksum : Word16) (payload : Frame)
  | cData (seq : Byte) (checksum : Word16) (payload : Frame)
  | cAck (seq : Byte) (checksum : Word16) (payload : Frame)
  | cNak (seq : Byte) (checksum : Word16) (payload : Frame)
  -- packets, format D (R92)
  | dData (seq : Seq32) (checksum : Word16) (payload : Frame)
  | dAck (seq : Seq32) (checksum : Word16) (payload : Frame)
  | dNak (seq : Seq32) (checksum : Word16) (payload : Frame)
  -- pure functions (40_codec.md)
  | csum16 (r : Role) (v : Variant) (bs : Frame)
  | seqEnc (r : Role) (v : Variant) (seq : Seq32)
  | seqDec (r : Role) (v : Variant) (sb : Frame)
  | encode (r : Role) (v : Variant) (kind : Byte) (seq : Seq32) (payload : Frame)
  | decode (r : Role) (v : Variant) (f : Frame)
  -- SEND, one per sender (R160, R180, R200, R220)
  | saSend (data : Frame)
  | sbSend (data : Frame)
  | scSend (data : Frame)
  | sdSend (data : Frame)
  -- RX, one per instance (R162, R164, R182, R184, R202, R206, R222, R228)
  | saRx (f : Frame)
  | raRx (f : Frame)
  | sbRx (f : Frame)
  | rbRx (f : Frame)
  | scRx (f : Frame)
  | rcRx (f : Frame)
  | sdRx (f : Frame)
  | rdRx (f : Frame)
  -- TIMEOUT, internal event (R204, R224)
  | scTimeout
  | sdTimeout
  -- the retransmission timer (R252 to R258)
  | tmrArm (v : TimedVariant)
  | tmrCancel (v : TimedVariant)
  | tmrRestart (v : TimedVariant)
  | tmrTick (v : TimedVariant)
  -- the host's events (R310, R290)
  | reset (cfg : Cfg)
  | shutdown (r : Role) (v : Variant)
  deriving DecidableEq, Repr

/-- What the input port presents, one at a time (R112): a datagram on the RX port, whole and with its length (R61), or
an operation: its dispatch key in the first byte (R116), its operands after it (the operands' layout is the model's own,
DESIGN CHOICE, log entry 10). -/
inductive Slot where
  | wire (frame : Frame)
  | op (bytes : Frame)
  deriving DecidableEq, Repr

/-- Why a decoder rejects its input. -/
inductive DecodeError where
  | emptySlot                       -- an operation slot without a key byte
  | keyTooWide                      -- bit 7 of the key byte is set; a key has 7 bits (R116)
  | unassignedOperation (op : Nat)  -- operation code 0xD..0xF (R114, R282 (e))
  | noSuchRow (r : Role) (v : Variant) (op : Nat)  -- no row of the table for this role and variant (R282 (c))
  | operandLength (found : Nat)     -- operand bytes of another length than the operation's operands have
  | sequenceForVariantA             -- a sequence operand given to variant A, which has none (R134)
  | shortFrame (length : Nat)       -- shorter than the header (R104)
  | unassignedKind (kind : Nat)     -- kind byte 3..255: no packet row (R101)
  deriving DecidableEq, Repr

end Sys2Proof
end

