-- ==== Sys2Proof/WellFormed.lean ====
section
/-! DEFINITION. WellFormed.lean: what an instruction must satisfy to have a slot of its own (the operands' layout of
Decode.lean, log entry 10). Domain errors the spec names (a kind outside 0..2, a sequence outside the variant's domain, an
illegal configuration) are not here: they are well-formed operations that are refused (R282 (d), (g)). -/

namespace Sys2Proof

/-- SEQ_DEC's operand is the `SW(V)` sequence bytes of a frame (R136); another number of bytes has no slot (log entry 39). -/
def Instr.seqDecFits (v : Variant) (sb : Frame) : Bool :=
  match v, sb with
  | .a, [] => true
  | .b, [_] => true
  | .c, [_] => true
  | .d, [_, _, _, _] => true
  | _, _ => false

/-- Variant A has no sequence operand (R134); the model writes it as 0. -/
def Instr.seqFits (v : Variant) (q : Seq32) : Bool := v != .a || q == 0

/-- RESET's numbers fit their slot bytes: 8, 4 and 8. -/
def Cfg.fits (cfg : Cfg) : Bool :=
  decide (cfg.mss < 2 ^ 64) && decide (cfg.n < 2 ^ 32) && decide (cfg.timeoutTicks < 2 ^ 64)

/-- The well-formed instructions: those with a slot of their own. -/
def Instr.wellFormed : Instr → Bool
  | .aData .. | .aAck .. | .aNak .. => true
  | .bData .. | .bAck .. | .bNak .. => true
  | .cData .. | .cAck .. | .cNak .. => true
  | .dData .. | .dAck .. | .dNak .. => true
  | .csum16 .. => true
  | .seqEnc _ v q => Instr.seqFits v q
  | .seqDec _ v sb => Instr.seqDecFits v sb
  | .encode _ v _ q _ => Instr.seqFits v q
  | .decode .. => true
  | .saSend .. | .sbSend .. | .scSend .. | .sdSend .. => true
  | .saRx .. | .raRx .. | .sbRx .. | .rbRx .. => true
  | .scRx .. | .rcRx .. | .sdRx .. | .rdRx .. => true
  | .scTimeout | .sdTimeout => true
  | .tmrArm .. | .tmrCancel .. | .tmrRestart .. | .tmrTick .. => true
  | .reset cfg => cfg.fits
  | .shutdown .. => true

end Sys2Proof
end

