-- ==== Sys2Proof/Decode.lean ====
section
/-! DEFINITION. Decode.lean: header geometry and byte order (00_scope.md R11, R16; 20_memory.md R64, R70), the decoder of
what the input port presents (30_encoding.md R90 to R92, R98, R114, R116) and the encoder beside it. -/

namespace Sys2Proof

/-! ### Sizes and byte order -/

/-- `SW(V)`: the sequence field's width in bytes (R11). -/
def seqWidth : Variant → Nat
  | .a => 0
  | .b => 1
  | .c => 1
  | .d => 4

/-- `H(V) = 1 + SW(V) + 2`: the header's size in bytes (R11). -/
def headerSize (v : Variant) : Nat := 1 + seqWidth v + 2

/-- `BE_k(v)`: the k bytes of `v`, most significant first (R16, R64). -/
def be : Nat → Nat → Frame
  | 0, _ => []
  | k + 1, v => BitVec.ofNat 8 (v / 256 ^ k) :: be k v

/-- `UBE(bs)`: the unsigned number whose big-endian bytes are `bs` (R16). -/
def ube (bs : Frame) : Nat := bs.foldl (fun acc b => acc * 256 + b.toNat) 0

/-- `MemRead(buf, off, n)` = `buf[off : off+n]` (R17). -/
def memRead (buf : Frame) (off n : Nat) : Frame := (buf.drop off).take n

/-- `MemWrite(buf, off, n, v)` with `n = len(v)`: those n bytes replaced by `v` (R17). -/
def memWrite (buf : Frame) (off : Nat) (v : Frame) : Frame := buf.take off ++ v ++ buf.drop (off + v.length)

/-! ### Keys of operations -/

/-- The key's role bit: 0 sender, 1 receiver (R116). -/
def Role.bit : Role → Nat
  | .sender => 0
  | .receiver => 1

/-- The key's variant bits: 00 A, 01 B, 10 C, 11 D (R116). -/
def Variant.code : Variant → Nat
  | .a => 0
  | .b => 1
  | .c => 2
  | .d => 3

/-- The variant that owns the timer. -/
def TimedVariant.variant : TimedVariant → Variant
  | .c => .c
  | .d => .d

/-- The dispatch key `r vv oooo` in the low seven bits of a byte (R116). -/
def opKey (r : Role) (v : Variant) (op : Nat) : Byte := BitVec.ofNat 8 (r.bit * 64 + v.code * 16 + op)

/-- The role of a key: bit 6. -/
def roleOfKey (k : Byte) : Role := if k.toNat / 64 % 2 = 0 then .sender else .receiver

/-- The variant of a key: bits 5..4. -/
def variantOfKey (k : Byte) : Variant :=
  match k.toNat / 16 % 4 with
  | 0 => .a
  | 1 => .b
  | 2 => .c
  | _ => .d

/-- The operation code of a key: bits 3..0. -/
def opOfKey (k : Byte) : Nat := k.toNat % 16

/-! ### The encoder -/

/-- A frame of format A from its header fields (R90). -/
def wireA (kind : Byte) (checksum : Word16) (payload : Frame) : Frame :=
  kind :: be 2 checksum.toNat ++ payload

/-- A frame of format BC from its header fields (R91). -/
def wireBC (kind seq : Byte) (checksum : Word16) (payload : Frame) : Frame :=
  kind :: seq :: be 2 checksum.toNat ++ payload

/-- A frame of format D from its header fields (R92). -/
def wireD (kind : Byte) (seq : Seq32) (checksum : Word16) (payload : Frame) : Frame :=
  kind :: be 4 seq.toNat ++ (be 2 checksum.toNat ++ payload)

/-- The operands of RESET in its slot: MSS in 8 bytes, N in 4, TIMEOUT_TICKS in 8, big-endian (DESIGN CHOICE, log
entry 10). -/
def cfgBytes (cfg : Cfg) : Frame := be 8 cfg.mss ++ (be 4 cfg.n ++ be 8 cfg.timeoutTicks)

/-- The slot of an instruction: a packet as its frame, an operation as its key and operands. TMR.RESTART has TMR.ARM's
key (R122, opcode_table.json). -/
def encode : Instr → Slot
  | .aData ck p => .wire (wireA 0 ck p)
  | .aAck ck p => .wire (wireA 1 ck p)
  | .aNak ck p => .wire (wireA 2 ck p)
  | .bData q ck p => .wire (wireBC 0 q ck p)
  | .bAck q ck p => .wire (wireBC 1 q ck p)
  | .bNak q ck p => .wire (wireBC 2 q ck p)
  | .cData q ck p => .wire (wireBC 0 q ck p)
  | .cAck q ck p => .wire (wireBC 1 q ck p)
  | .cNak q ck p => .wire (wireBC 2 q ck p)
  | .dData q ck p => .wire (wireD 0 q ck p)
  | .dAck q ck p => .wire (wireD 1 q ck p)
  | .dNak q ck p => .wire (wireD 2 q ck p)
  | .csum16 r v bs => .op (opKey r v 0x0 :: bs)
  | .seqEnc r v q => .op (opKey r v 0x1 :: be 4 q.toNat)
  | .seqDec r v sb => .op (opKey r v 0x2 :: sb)
  | .encode r v k q p => .op (opKey r v 0x3 :: k :: be 4 q.toNat ++ p)
  | .decode r v f => .op (opKey r v 0x4 :: f)
  | .saSend p => .op (opKey .sender .a 0x5 :: p)
  | .sbSend p => .op (opKey .sender .b 0x5 :: p)
  | .scSend p => .op (opKey .sender .c 0x5 :: p)
  | .sdSend p => .op (opKey .sender .d 0x5 :: p)
  | .saRx f => .op (opKey .sender .a 0x6 :: f)
  | .raRx f => .op (opKey .receiver .a 0x6 :: f)
  | .sbRx f => .op (opKey .sender .b 0x6 :: f)
  | .rbRx f => .op (opKey .receiver .b 0x6 :: f)
  | .scRx f => .op (opKey .sender .c 0x6 :: f)
  | .rcRx f => .op (opKey .receiver .c 0x6 :: f)
  | .sdRx f => .op (opKey .sender .d 0x6 :: f)
  | .rdRx f => .op (opKey .receiver .d 0x6 :: f)
  | .scTimeout => .op [opKey .sender .c 0x7]
  | .sdTimeout => .op [opKey .sender .d 0x7]
  | .tmrArm v => .op [opKey .sender v.variant 0x8]
  | .tmrCancel v => .op [opKey .sender v.variant 0x9]
  | .tmrRestart v => .op [opKey .sender v.variant 0x8]
  | .tmrTick v => .op [opKey .sender v.variant 0xA]
  | .reset cfg => .op (opKey cfg.role cfg.variant 0xB :: cfgBytes cfg)
  | .shutdown r v => .op [opKey r v 0xC]

/-! ### The decoder -/

/-- The packet row of a frame, read under the layout of variant `v` (R100): the kind byte selects the row (R98), a kind
byte 3..255 (R101) and a frame shorter than the header (R104) belong to no row. -/
def decodeFrame (v : Variant) (f : Frame) : Except DecodeError Instr :=
  match v, f with
  | .a, k :: c1 :: c0 :: p =>
    match k.toNat with
    | 0 => .ok (.aData (BitVec.ofNat 16 (ube [c1, c0])) p)
    | 1 => .ok (.aAck (BitVec.ofNat 16 (ube [c1, c0])) p)
    | 2 => .ok (.aNak (BitVec.ofNat 16 (ube [c1, c0])) p)
    | n => .error (.unassignedKind n)
  | .b, k :: q :: c1 :: c0 :: p =>
    match k.toNat with
    | 0 => .ok (.bData q (BitVec.ofNat 16 (ube [c1, c0])) p)
    | 1 => .ok (.bAck q (BitVec.ofNat 16 (ube [c1, c0])) p)
    | 2 => .ok (.bNak q (BitVec.ofNat 16 (ube [c1, c0])) p)
    | n => .error (.unassignedKind n)
  | .c, k :: q :: c1 :: c0 :: p =>
    match k.toNat with
    | 0 => .ok (.cData q (BitVec.ofNat 16 (ube [c1, c0])) p)
    | 1 => .ok (.cAck q (BitVec.ofNat 16 (ube [c1, c0])) p)
    | 2 => .ok (.cNak q (BitVec.ofNat 16 (ube [c1, c0])) p)
    | n => .error (.unassignedKind n)
  | .d, k :: q3 :: q2 :: q1 :: q0 :: c1 :: c0 :: p =>
    match k.toNat with
    | 0 => .ok (.dData (BitVec.ofNat 32 (ube [q3, q2, q1, q0])) (BitVec.ofNat 16 (ube [c1, c0])) p)
    | 1 => .ok (.dAck (BitVec.ofNat 32 (ube [q3, q2, q1, q0])) (BitVec.ofNat 16 (ube [c1, c0])) p)
    | 2 => .ok (.dNak (BitVec.ofNat 32 (ube [q3, q2, q1, q0])) (BitVec.ofNat 16 (ube [c1, c0])) p)
    | n => .error (.unassignedKind n)
  | _, f => .error (.shortFrame f.length)

/-- SEND exists at senders only (R112, R282 (c)). -/
def decodeSend (r : Role) (v : Variant) (data : Frame) : Except DecodeError Instr :=
  match r, v with
  | .sender, .a => .ok (.saSend data)
  | .sender, .b => .ok (.sbSend data)
  | .sender, .c => .ok (.scSend data)
  | .sender, .d => .ok (.sdSend data)
  | .receiver, v => .error (.noSuchRow .receiver v 0x5)

/-- The RX operation of each instance (R114). -/
def rxInstr (r : Role) (v : Variant) (f : Frame) : Instr :=
  match r, v with
  | .sender, .a => .saRx f
  | .receiver, .a => .raRx f
  | .sender, .b => .sbRx f
  | .receiver, .b => .rbRx f
  | .sender, .c => .scRx f
  | .receiver, .c => .rcRx f
  | .sender, .d => .sdRx f
  | .receiver, .d => .rdRx f

/-- The timer that a key `0 1v oooo` addresses; receivers and variants A and B have none (R250, R282 (c)). -/
def timedKey (r : Role) (v : Variant) : Option TimedVariant :=
  match r, v with
  | .sender, .c => some .c
  | .sender, .d => some .d
  | _, _ => none

/-- An operation without operand bytes at a timed sender. -/
def decodeTimed (r : Role) (v : Variant) (op : Nat) (rest : Frame) (mk : TimedVariant → Instr) :
    Except DecodeError Instr :=
  match timedKey r v with
  | none => .error (.noSuchRow r v op)
  | some tv => if rest.isEmpty then .ok (mk tv) else .error (.operandLength rest.length)

/-- A sequence operand: four bytes, big-endian; variant A has none, and its four bytes are zero (R134, log entry 10). -/
def seqOperand (v : Variant) (bs : Frame) : Except DecodeError Seq32 :=
  if v = .a ∧ ube bs ≠ 0 then .error .sequenceForVariantA else .ok (BitVec.ofNat 32 (ube bs))

/-- An operation slot: the key selects the row, the rest are its operands (R114, R116). -/
def decodeOp : Frame → Except DecodeError Instr
  | [] => .error .emptySlot
  | k :: rest =>
    if 128 ≤ k.toNat then .error .keyTooWide
    else
      let r := roleOfKey k
      let v := variantOfKey k
      match opOfKey k with
      | 0x0 => .ok (.csum16 r v rest)
      | 0x1 =>
        if rest.length = 4 then (seqOperand v rest).map (fun q => .seqEnc r v q)
        else .error (.operandLength rest.length)
      | 0x2 => if rest.length = seqWidth v then .ok (.seqDec r v rest) else .error (.operandLength rest.length)
      | 0x3 =>
        match rest with
        | kind :: q3 :: q2 :: q1 :: q0 :: p =>
          (seqOperand v [q3, q2, q1, q0]).map (fun q => .encode r v kind q p)
        | short => .error (.operandLength short.length)
      | 0x4 => .ok (.decode r v rest)
      | 0x5 => decodeSend r v rest
      | 0x6 => .ok (rxInstr r v rest)
      | 0x7 => decodeTimed r v 0x7 rest (fun tv => match tv with | .c => .scTimeout | .d => .sdTimeout)
      | 0x8 => decodeTimed r v 0x8 rest .tmrArm
      | 0x9 => decodeTimed r v 0x9 rest .tmrCancel
      | 0xA => decodeTimed r v 0xA rest .tmrTick
      | 0xB =>
        if rest.length = 20 then
          .ok (.reset { variant := v, role := r, mss := ube (memRead rest 0 8), n := ube (memRead rest 8 4),
                        timeoutTicks := ube (memRead rest 12 8) })
        else .error (.operandLength rest.length)
      | 0xC => if rest.isEmpty then .ok (.shutdown r v) else .error (.operandLength rest.length)
      | op => .error (.unassignedOperation op)

/-- What the input port presents, read by an instance of variant `v`; the variant matters for a frame only (R100). -/
def decode (v : Variant) : Slot → Except DecodeError Instr
  | .wire f => decodeFrame v f
  | .op bs => decodeOp bs

/-- The variant under which an instruction's slot is read back: a packet row's own; for an operation any will do. -/
def Instr.layout : Instr → Variant
  | .bData .. | .bAck .. | .bNak .. => .b
  | .cData .. | .cAck .. | .cNak .. => .c
  | .dData .. | .dAck .. | .dNak .. => .d
  | _ => .a

/-- TMR.RESTART is TMR.ARM's word under another name (R122, R256); every other instruction is its own. -/
def Instr.canonical : Instr → Instr
  | .tmrRestart v => .tmrArm v
  | i => i

/-! ### Words as spec/opcode_table.json numbers them -/

/-- How many operand bytes of a fixed size follow a key; byte-string operands have none in the table. -/
def fixedOperandBytes (k : Byte) : Nat :=
  match opOfKey k with
  | 0x1 => 4
  | 0x2 => seqWidth (variantOfKey k)
  | 0x3 => 5
  | 0xB => 20
  | _ => 0

/-- The slot of a table word and the layout it is read under. An `OP` row has a 7-bit key in one byte. A packet row is
its header read as one big-endian number (R90 to R92), so bit `nbits - 1` belongs to the first byte on the wire; 32 bits
are format BC, whose rows B.x and C.x have the same bits (R98, R100), read here as variant B (log entry 12). -/
def tableSlot (nbits w : Nat) : Option (Variant × Slot) :=
  if nbits ≤ 8 then
    some (.a, .op (BitVec.ofNat 8 w :: be (fixedOperandBytes (BitVec.ofNat 8 w)) 0))
  else if nbits = 24 then some (.a, .wire (be 3 w))
  else if nbits = 32 then some (.b, .wire (be 4 w))
  else if nbits = 56 then some (.d, .wire (be 7 w))
  else none

/-- The instruction the decoder reads from a table word. -/
def decodeTableWord (nbits w : Nat) : Option Instr :=
  match tableSlot nbits w with
  | none => none
  | some (v, slot) => (decode v slot).toOption

end Sys2Proof
end

