-- ==== Sys2Proof/Machine/State.lean ====
section
/-! DEFINITION. Machine/State.lean: the state of one instance of the block (10_state.md R23 to R39), its outputs, the
reasons a step can stop, and the state right after RESET (70_reset_and_hazards.md R310). Plain data throughout. -/

namespace Sys2Proof.Machine

/-- Control state of a variant-A sender (R23); `awaiting_ack` is the same register. -/
inductive PhaseA where
  | idle
  | awaitingResponse
  deriving DecidableEq, Repr

/-- Control state of a variant-B or variant-C sender (R24, R25). -/
inductive Phase where
  | ready
  | waitAck
  deriving DecidableEq, Repr

/-- The retransmission timer's three registers (R33). -/
structure Timer where
  armed : Bool
  expired : Bool
  remaining : Nat
  deriving DecidableEq, Repr

/-- The in-flight buffer of a variant-D sender: a finite map from 32-bit sequence numbers to frames (R63), the block's
only indexed storage (R37). Canonical form: `Memory.wf` (Machine/Ops.lean). -/
abbrev Memory := List (Seq32 × Frame)

/-- Sender, variant A (R23). -/
structure SenderA where
  phase : PhaseA
  lastPacket : Frame
  deriving DecidableEq, Repr

/-- Sender, variant B (R24). -/
structure SenderB where
  phase : Phase
  currentSequence : BitVec 1
  lastPacket : Frame
  deriving DecidableEq, Repr

/-- Sender, variant C (R25, R33). -/
structure SenderC where
  phase : Phase
  currentSequence : BitVec 8
  lastPacket : Frame
  timer : Timer
  deriving DecidableEq, Repr

/-- Sender, variant D (R26, R33). -/
structure SenderD where
  base : Seq32
  nextToSend : Seq32
  buffer : Memory
  timer : Timer
  deriving DecidableEq, Repr

/-- The session registers of an instance. The constructor IS the static configuration VARIANT and ROLE (R7, R8, R36);
an instance has exactly the registers of its role and variant (R39). -/
inductive Regs where
  | unconfigured                            -- before the first RESET (R282 (f))
  | senderA (r : SenderA)
  | senderB (r : SenderB)
  | senderC (r : SenderC)
  | senderD (r : SenderD)
  | receiverA                               -- no session register (R28)
  | receiverB (expected : BitVec 1)         -- R29
  | receiverC (expected : BitVec 8)         -- R30
  | receiverD (expected : Seq32)            -- R31
  deriving DecidableEq, Repr

/-- The numeric configuration values (R9, R10, R12, R36). -/
structure Params where
  mss : Nat
  n : Nat
  timeoutTicks : Nat
  deriving DecidableEq, Repr

/-- The output actions of the block (R17, R112). -/
inductive Output where
  | tx (frame : Frame)
  | deliver (payload : Frame)
  | done (tag : Option Seq32)     -- no tag for A, B, C; the sequence number for D (R222)
  | framingError (length : Nat)   -- cause 1 with the offending length (R270)
  deriving DecidableEq, Repr

/-- The record DECODE returns (R144). `seq` is none for variant A. -/
structure Decoded where
  kind : Byte
  seq : Option Nat
  checksumOk : Bool
  payload : Frame
  deriving DecidableEq, Repr

/-- What a codec function issued as an operation returned (log entry 15). -/
inductive OpResult where
  | none
  | checksum (c : Word16)
  | bytes (bs : Frame)
  | sequence (q : Option Nat)
  | packet (d : Decoded)
  deriving DecidableEq, Repr

/-- The sources that may offer an event at once (R276, R278). -/
inductive Source where
  | port
  | held
  | timeout
  deriving DecidableEq, Repr

/-- One instance of the block and its ports. -/
structure State where
  /-- MSS, N, TIMEOUT_TICKS (R36). -/
  params : Params
  /-- `SA_UNRECOGNIZED` (U4). -/
  saUnrecognized : Unrecognized
  /-- R32. -/
  running : Bool
  /-- VARIANT, ROLE and the session registers (R23 to R31, R33). -/
  regs : Regs
  /-- Events at the input port, in the order they are presented (R112). -/
  inbox : List Slot
  /-- SENDs that were presented and are held (R17, R276 (c)), oldest first. -/
  held : List Frame
  /-- The model's own: which available source is served next (R278; log entry 8). -/
  schedule : List Source
  /-- The output log, oldest first (R17, R73). -/
  outputs : List Output
  /-- The model's own: the last codec function's return value (log entry 15). -/
  result : OpResult
  /-- The model's own: the index of the next free value (log entry 5). -/
  draws : Nat
  deriving DecidableEq, Repr

/-- The machine stops with a fault. -/
inductive Fault where
  /-- Raised by SD.TIMEOUT when a sequence of the window has no frame in `buffer`: there is no value to transmit (R63,
  R224). SAFE: the machine stops; no run reaches it (R226 (2)). -/
  | bufferEntryMissing (seq : Seq32)
  deriving DecidableEq, Repr

/-- The model gives no step (R17 `refuse`, R282). -/
inductive Refusal where
  /-- Raised by `exec`'s arms for an instruction without a meaning; no arm does. SAFE: no step is taken. -/
  | notModelled (mnemonic : String)
  /-- Raised by every event before the first RESET (R282 (f)). SAFE: no step is taken. -/
  | beforeReset
  /-- Raised by an operation whose key names another role or variant than the instance's (R276, R282 (c)). SAFE: no step
  is taken. -/
  | wrongInstance
  /-- Raised by SEND and ENCODE with a payload longer than MSS (R282 (a), R142 (c)). SAFE: no step is taken. -/
  | payloadTooLong
  /-- Raised by RX with a frame longer than H + MSS (R68, R282 (b)). SAFE: no step is taken. -/
  | frameTooLong
  /-- Raised by ENCODE with a kind outside 0, 1, 2 (R142 (b), R282 (d)). SAFE: no step is taken. -/
  | kindOutsideDomain
  /-- Raised by SEQ_ENC and ENCODE with a sequence outside the variant's domain (R134, R282 (d)). SAFE: no step is
  taken. -/
  | sequenceOutsideDomain
  /-- Raised by SEQ_DEC with another number of bytes than SW(V). DESIGN CHOICE (log entry 39): R136 says what `sb` is, and no
  rule says what another number of bytes does. SAFE: no step is taken. -/
  | sequenceBytesLength
  /-- Raised by RESET with a configuration outside R7 to R12 (R282 (g)). SAFE: no step is taken. -/
  | badConfiguration
  /-- Raised by TIMEOUT while `expired = 0`: the event is not enabled (R260, T-T14). SAFE: no step is taken. -/
  | timeoutNotEnabled
  /-- Raised by the step for an operation slot that is no row of the table (R282 (c), (e)), or that is not laid out as the
  model lays its operands out (DESIGN CHOICE, log entries 10 and 39). SAFE: no step is taken. -/
  | undecodable (e : DecodeError)
  deriving DecidableEq, Repr

/-- The outcome of a step or of a meaning. -/
abbrev Result := Host.Outcome State Fault Refusal

/-- The machine right after RESET(cfg) for the configuration `Config.resetCfg` (log entry 2): a variant-A sender with the
registers of R310 and R39, nothing at the ports, nothing in the log. DESIGN CHOICE (log entry 3): `last_packet`, which the
spec leaves unspecified, is empty here. `State.resetOf` (Machine/System.lean) is the same for every configuration. -/
def State.reset : State :=
  { params :=
      { mss := Config.resetCfg.mss, n := Config.resetCfg.n, timeoutTicks := Config.resetCfg.timeoutTicks }
    saUnrecognized := Config.saUnrecognizedDefault
    running := true
    regs := .senderA { phase := .idle, lastPacket := [] }
    inbox := []
    held := []
    schedule := []
    outputs := []
    result := .none
    draws := 0 }

end Sys2Proof.Machine
end

