-- ==== Sys2Proof/Machine/Flags.lean ====
section
/-! DEFINITION. Machine/Flags.lean: the checksum (40_codec.md R130, R132), the flags of 10_state.md R35 and the timer
operations on the timer's registers (45_retransmission_timer.md R252 to R258), and the window tests of variant D
(44_variant_D_go_back_n.md). -/

namespace Sys2Proof.Machine

/-- CSUM16: bytes added one at a time modulo 2^16, then complemented (R130). -/
def csum16 (bs : Frame) : Word16 := ~~~ (bs.foldl (fun acc b => acc + b.setWidth 16) 0)

/-- The bytes of a frame that the checksum covers: kind, sequence, payload; not the checksum field (R132). -/
def covered (v : Variant) (f : Frame) : Frame := memRead f 0 (1 + seqWidth v) ++ f.drop (headerSize v)

/-- `awaiting_ack`: the same register as `phase` (R23). -/
def SenderA.awaitingAck (r : SenderA) : Bool := r.phase == .awaitingResponse

/-! ### The timer -/

/-- TMR.ARM (R252). -/
def Timer.arm (ticks : Nat) (_t : Timer) : Timer := { armed := true, expired := false, remaining := ticks }

/-- TMR.CANCEL (R254): an idle timer is left alone; of a stopped one `remaining` is the free value `unspecified` (log
entry 6). -/
def Timer.cancel (unspecified : Nat) (t : Timer) : Timer :=
  if t.armed || t.expired then { armed := false, expired := false, remaining := unspecified } else t

/-- TMR.RESTART: TMR.CANCEL, then TMR.ARM (R256). -/
def Timer.restart (unspecified ticks : Nat) (t : Timer) : Timer := Timer.arm ticks (Timer.cancel unspecified t)

/-- TMR.TICK (R258). `remaining` never goes below 0 (R154). -/
def Timer.tick (t : Timer) : Timer :=
  if t.armed then
    if t.remaining - 1 = 0 then { armed := false, expired := true, remaining := 0 }
    else { t with remaining := t.remaining - 1 }
  else t

/-- The first act of a TIMEOUT handler: the flag is serviced (R204, R224). -/
def Timer.service (t : Timer) : Timer := { t with expired := false }

/-! ### The window of variant D -/

/-- `out`: the number of outstanding packets, modulo 2^32 (R26, R220). -/
def SenderD.outstanding (r : SenderD) : Nat := (r.nextToSend - r.base).toNat

/-- The window has room for one more packet (R220 step 1). -/
def SenderD.windowOpen (n : Nat) (r : SenderD) : Bool := decide (r.outstanding < n)

/-- `s` lies in `[base, next_to_send)`, modulo 2^32 (R222 (d)). -/
def SenderD.insideWindow (r : SenderD) (s : Seq32) : Bool := decide ((s - r.base).toNat < r.outstanding)

/-- `count` sequence numbers ascending from `b`, each step modulo 2^32 (D19). -/
def seqRun (b : Seq32) : Nat → List Seq32
  | 0 => []
  | k + 1 => b :: seqRun (b + 1) k

end Sys2Proof.Machine
end

