-- ==== Sys2Proof/Machine/Operands.lean ====
section
/-! DEFINITION. Machine/Operands.lean: the codec's functions on byte strings (40_codec.md R134 to R148), by variant. -/

namespace Sys2Proof.Machine

/-- The three assigned kind codes (30_encoding.md R95). -/
def kindData : Byte := 0
def kindAck : Byte := 1
def kindNak : Byte := 2

/-- `q` is in the sequence domain of the variant (R11, R134); variant A has no sequence operand. -/
def seqInDomain (v : Variant) (q : Nat) : Bool :=
  match v with
  | .a => true
  | .b => decide (q < 2)
  | .c => decide (q < 256)
  | .d => decide (q < 2 ^ 32)

/-- SEQ_ENC on its domain: `SW(V)` bytes (R134, R96). -/
def Codec.seqEnc (v : Variant) (q : Nat) : Frame :=
  match v with
  | .a => []
  | .b => be 1 q
  | .c => be 1 q
  | .d => be 4 q

/-- SEQ_DEC: none for A, the unmasked byte for B and C, big-endian for D (R136, R102). -/
def Codec.seqDec (v : Variant) (sb : Frame) : Option Nat :=
  match v with
  | .a => none
  | .b => some (ube sb)
  | .c => some (ube sb)
  | .d => some (ube sb)

/-- ENCODE on its domain: kind, sequence, checksum, payload (R140, R94, R97). -/
def Codec.encode (v : Variant) (kind : Byte) (q : Nat) (payload : Frame) : Frame :=
  let sb := Codec.seqEnc v q
  kind :: sb ++ be 2 (csum16 (kind :: sb ++ payload)).toNat ++ payload

/-- DECODE: the record, or FramingError with the offending length (R144). -/
def Codec.decode (v : Variant) (f : Frame) : Except Nat Decoded :=
  if f.length < headerSize v then .error f.length
  else
    .ok { kind := f.getD 0 0
          seq := Codec.seqDec v (memRead f 1 (seqWidth v))
          checksumOk := (csum16 (covered v f)).toNat == ube (memRead f (headerSize v - 2) 2)
          payload := f.drop (headerSize v) }

/-- ENCODE as its prose has it: lay out the frame with a placeholder in the checksum field, then overwrite the field
(R97, U5). Not what the machine runs; a statement says it agrees. -/
def Codec.encodeInPlace (placeholder : Word16) (v : Variant) (kind : Byte) (q : Nat) (payload : Frame) : Frame :=
  let f := kind :: Codec.seqEnc v q ++ be 2 placeholder.toNat ++ payload
  memWrite f (1 + seqWidth v) (be 2 (csum16 (covered v f)).toNat)

/-- A control packet as the ack generator builds it: empty payload (R99). -/
def Codec.control (v : Variant) (kind : Byte) (q : Nat) : Frame := Codec.encode v kind q []

end Sys2Proof.Machine
end

