-- ==== Sys2Proof/Machine/Ops.lean ====
section
/-! DEFINITION. Machine/Ops.lean: the named operations every meaning is written over: outputs and registers, the in-flight
buffer, the guards of the events (60_exceptions.md R282, R290), FramingError as the one shared exception (R270). -/

namespace Sys2Proof.Machine

/-! ### Registers and outputs -/

/-- The session registers, written whole. -/
def State.setRegs (s : State) (r : Regs) : State := { s with regs := r }

/-- Output actions, appended to the log in program order (R17, R73). -/
def State.emit (s : State) (os : List Output) : State := { s with outputs := s.outputs ++ os }

/-- The return value of a codec function. -/
def State.setResult (s : State) (r : OpResult) : State := { s with result := r }

/-- `hold`: the SEND is not consumed and stays pending (R17). -/
def State.hold (s : State) (data : Frame) : State := { s with held := s.held ++ [data] }

/-- Role and variant of the instance; none before the first RESET. -/
def Regs.identity : Regs → Option (Role × Variant)
  | .unconfigured => none
  | .senderA _ => some (.sender, .a)
  | .senderB _ => some (.sender, .b)
  | .senderC _ => some (.sender, .c)
  | .senderD _ => some (.sender, .d)
  | .receiverA => some (.receiver, .a)
  | .receiverB _ => some (.receiver, .b)
  | .receiverC _ => some (.receiver, .c)
  | .receiverD _ => some (.receiver, .d)

/-! ### Free values -/

/-- The unspecified `remaining`: any value of its range 0..TIMEOUT_TICKS (R33, R254, R312; log entry 4). -/
def unspecifiedRemaining (ticks draws : Nat) : Nat := Config.freeRemaining draws % (ticks + 1)

/-- The unspecified `last_packet`: any byte string of 0..H+MSS bytes (R39, R312; log entry 3). -/
def unspecifiedPacket (v : Variant) (mss draws : Nat) : Frame := (Config.freeFrame draws).take (headerSize v + mss)

/-! ### The in-flight buffer -/

/-- Canonical form: sequence numbers strictly rising, so one entry a key and equal maps are equal lists. -/
abbrev Memory.wf (m : Memory) : Prop := m.Pairwise (fun x y => x.1.toNat < y.1.toNat)

/-- The frame stored for a sequence; none where the map has no such key (R63). -/
def Memory.read (m : Memory) (q : Seq32) : Option Frame := m.lookup q

/-- `buffer[q] <- f` (R220). -/
def Memory.write (m : Memory) (q : Seq32) (f : Frame) : Memory :=
  match m with
  | [] => [(q, f)]
  | (k, g) :: rest =>
    if q.toNat < k.toNat then (q, f) :: (k, g) :: rest
    else if q = k then (q, f) :: rest
    else (k, g) :: Memory.write rest q f

/-- `remove buffer[q]` (R222). -/
def Memory.erase (m : Memory) (q : Seq32) : Memory := m.filter (fun e => e.1 != q)

/-- Every listed sequence removed. -/
def Memory.eraseAll (m : Memory) (qs : List Seq32) : Memory := qs.foldl Memory.erase m

/-- The frames of the listed sequences in order, or the first sequence that has none. -/
def Memory.readAll (m : Memory) : List Seq32 → Except Seq32 (List Frame)
  | [] => .ok []
  | q :: qs =>
    match m.read q with
    | none => .error q
    | some f =>
      match Memory.readAll m qs with
      | .error e => .error e
      | .ok fs => .ok (f :: fs)

/-! ### Errors and guards -/

/-- `raise FramingError(n)`: cause 1 is recorded with the offending length; the frame is discarded and the handler ends
with no further effect (R17, R270). Nothing is saved and control goes nowhere, so there is no return (R280, R281). -/
def raiseFramingError (n : Nat) (s : State) : Result := .next (s.emit [.framingError n])

/-- `discard`: the handler ends with no state change and no output (R17). -/
def discard (s : State) : Result := .next s

/-- An operation whose key is not this instance's: nothing is addressed to it (R276, R282 (c), (f)). -/
def misaddressed (s : State) : Result :=
  match s.regs.identity with
  | none => .refused .beforeReset
  | some _ => .refused .wrongInstance

/-- While `running = 0` the event is discarded with no effect (R290). -/
def whileRunning (s : State) (k : Result) : Result := if s.running then k else discard s

/-- The SEND event: held while the sender cannot accept it, refused over MSS (R160, R180, R200, R220, R282 (a)). -/
def sendEvent (ready : Bool) (data : Frame) (s : State) (accept : Result) : Result :=
  whileRunning s <|
    if ready then
      if data.length ≤ s.params.mss then accept else .refused .payloadTooLong
    else .next (s.hold data)

/-- The RX event's port contract: no frame longer than H + MSS (R68, R282 (b)). -/
def rxEvent (v : Variant) (f : Frame) (s : State) (handle : Result) : Result :=
  whileRunning s <|
    if f.length ≤ headerSize v + s.params.mss then handle else .refused .frameTooLong

/-- DECODE at the head of an RX handler: a short frame raises FramingError, otherwise the record decides (R148, R279). -/
def onDecoded (v : Variant) (f : Frame) (s : State) (handle : Decoded → Result) : Result :=
  match Codec.decode v f with
  | .error n => raiseFramingError n s
  | .ok d => handle d

/-- The TIMEOUT event: enabled exactly while `expired = 1` (R260). -/
def timeoutEvent (t : Timer) (s : State) (handle : Result) : Result :=
  whileRunning s <| if t.expired then handle else .refused .timeoutNotEnabled

/-- A timer micro-operation at the sender that owns the timer (R250). -/
def onTimer (v : TimedVariant) (s : State) (f : Timer → Timer) : Result :=
  match v, s.regs with
  | .c, .senderC r => .next (s.setRegs (.senderC { r with timer := f r.timer }))
  | .d, .senderD r => .next (s.setRegs (.senderD { r with timer := f r.timer }))
  | _, _ => misaddressed s

end Sys2Proof.Machine
end

