-- ==== Sys2Proof/Machine/Codec.lean ====
section
/-! DEFINITION. Machine/Codec.lean: the five codec functions issued as operations (40_codec.md). They read no register and
write none; the return value is left in `State.result` (log entry 15). -/

namespace Sys2Proof.Machine

/-- CSUM16 (R130). -/
def execCsum16 (bs : Frame) (s : State) : Result := .next (s.setResult (.checksum (csum16 bs)))

/-- SEQ_ENC (R134). -/
def execSeqEnc (v : Variant) (q : Seq32) (s : State) : Result :=
  if seqInDomain v q.toNat then .next (s.setResult (.bytes (Codec.seqEnc v q.toNat)))
  else .refused .sequenceOutsideDomain

/-- SEQ_DEC (R136). DESIGN CHOICE (log entry 39): R136 says only that `sb` is the SW(V) sequence bytes of a frame; that
another number of bytes is refused is the model's own, and no rule of the spec (R282 does not name it). -/
def execSeqDec (v : Variant) (sb : Frame) (s : State) : Result :=
  if sb.length = seqWidth v then .next (s.setResult (.sequence (Codec.seqDec v sb)))
  else .refused .sequenceBytesLength

/-- ENCODE (R140, R142). MSS is the instance's (log entry 33). -/
def execEncode (v : Variant) (kind : Byte) (q : Seq32) (payload : Frame) (s : State) : Result :=
  if s.regs.identity = none then .refused .beforeReset
  else if ¬ kind.toNat ≤ 2 then .refused .kindOutsideDomain
  else if seqInDomain v q.toNat = false then .refused .sequenceOutsideDomain
  else if ¬ payload.length ≤ s.params.mss then .refused .payloadTooLong
  else .next (s.setResult (.bytes (Codec.encode v kind q.toNat payload)))

/-- DECODE (R144, R146); no MSS check (R146 (e)). -/
def execDecode (v : Variant) (f : Frame) (s : State) : Result :=
  onDecoded v f s fun d => .next (s.setResult (.packet d))

end Sys2Proof.Machine
end

