-- ==== Sys2Proof/Machine/VariantA.lean ====
section
/-! DEFINITION. Machine/VariantA.lean: stop-and-wait without a sequence number (41_variant_A_stop_and_wait.md). -/

namespace Sys2Proof.Machine

/-- SA.SEND (R160). -/
def execSaSend (data : Frame) (s : State) : Result :=
  match s.regs with
  | .senderA r =>
    let p := Codec.encode .a kindData 0 data
    sendEvent (r.phase == .idle) data s <|
      .next ((s.setRegs (.senderA { r with phase := .awaitingResponse, lastPacket := p })).emit [.tx p])
  | _ => misaddressed s

/-- SA.RX (R162); branch (f) by `SA_UNRECOGNIZED` (U4). -/
def execSaRx (f : Frame) (s : State) : Result :=
  match s.regs with
  | .senderA r =>
    rxEvent .a f s <|
      match r.phase with
      | .idle => discard s
      | .awaitingResponse =>
        onDecoded .a f s fun d =>
          if d.checksumOk = false then .next (s.emit [.tx r.lastPacket])
          else if d.kind = kindNak then .next (s.emit [.tx r.lastPacket])
          else if d.kind = kindAck then .next ((s.setRegs (.senderA { r with phase := .idle })).emit [.done none])
          else
            match s.saUnrecognized with
            | .retransmit => .next (s.emit [.tx r.lastPacket])
            | .discard => discard s
  | _ => misaddressed s

/-- RA.RX (R164). -/
def execRaRx (f : Frame) (s : State) : Result :=
  match s.regs with
  | .receiverA =>
    rxEvent .a f s <|
      onDecoded .a f s fun d =>
        if d.checksumOk = false then .next (s.emit [.tx (Codec.control .a kindNak 0)])
        else if d.kind = kindData then .next (s.emit [.deliver d.payload, .tx (Codec.control .a kindAck 0)])
        else discard s
  | _ => misaddressed s

end Sys2Proof.Machine
end

