-- ==== Sys2Proof/Machine/VariantB.lean ====
section
/-! DEFINITION. Machine/VariantB.lean: alternating-bit stop-and-wait (42_variant_B_alternating_bit.md). -/

namespace Sys2Proof.Machine

/-- `flip` of a 1-bit sequence: `1 - seq` (30_encoding.md R122, 40_codec.md R154). -/
def flipBit (c : BitVec 1) : BitVec 1 := 1 - c

/-- SB.SEND (R180). -/
def execSbSend (data : Frame) (s : State) : Result :=
  match s.regs with
  | .senderB r =>
    let p := Codec.encode .b kindData r.currentSequence.toNat data
    sendEvent (r.phase == .ready) data s <|
      .next ((s.setRegs (.senderB { r with phase := .waitAck, lastPacket := p })).emit [.tx p])
  | _ => misaddressed s

/-- SB.RX (R182). -/
def execSbRx (f : Frame) (s : State) : Result :=
  match s.regs with
  | .senderB r =>
    rxEvent .b f s <|
      match r.phase with
      | .ready => discard s
      | .waitAck =>
        onDecoded .b f s fun d =>
          if d.checksumOk = false then discard s
          else if (d.kind = kindAck ∨ d.kind = kindNak) ∧ d.seq = some (flipBit r.currentSequence).toNat then discard s
          else if d.kind = kindAck ∧ d.seq = some r.currentSequence.toNat then
            .next ((s.setRegs (.senderB { r with currentSequence := flipBit r.currentSequence, phase := .ready })).emit
              [.done none])
          else if d.kind = kindNak ∧ d.seq = some r.currentSequence.toNat then .next (s.emit [.tx r.lastPacket])
          else .next (s.emit [.tx r.lastPacket])
  | _ => misaddressed s

/-- RB.RX (R184). -/
def execRbRx (f : Frame) (s : State) : Result :=
  match s.regs with
  | .receiverB e =>
    rxEvent .b f s <|
      onDecoded .b f s fun d =>
        if d.checksumOk = false then .next (s.emit [.tx (Codec.control .b kindNak e.toNat)])
        else if d.kind ≠ kindData then discard s
        else if d.seq = some e.toNat then
          .next ((s.setRegs (.receiverB (flipBit e))).emit
            [.deliver d.payload, .tx (Codec.control .b kindAck e.toNat)])
        else .next (s.emit [.tx (Codec.control .b kindAck (flipBit e).toNat)])
  | _ => misaddressed s

end Sys2Proof.Machine
end

