-- ==== Sys2Proof/Machine/VariantC.lean ====
section
/-! DEFINITION. Machine/VariantC.lean: timer-driven stop-and-wait with an 8-bit counter (43_variant_C_timer_driven.md). -/

namespace Sys2Proof.Machine

/-- SC.SEND (R200). -/
def execScSend (data : Frame) (s : State) : Result :=
  match s.regs with
  | .senderC r =>
    let p := Codec.encode .c kindData r.currentSequence.toNat data
    sendEvent (r.phase == .ready) data s <|
      .next ((s.setRegs (.senderC { r with
          phase := .waitAck, lastPacket := p, timer := r.timer.arm s.params.timeoutTicks })).emit [.tx p])
  | _ => misaddressed s

/-- SC.RX (R202). -/
def execScRx (f : Frame) (s : State) : Result :=
  match s.regs with
  | .senderC r =>
    rxEvent .c f s <|
      match r.phase with
      | .ready => discard s
      | .waitAck =>
        onDecoded .c f s fun d =>
          if d.checksumOk = true ∧ d.kind = kindAck ∧ d.seq = some r.currentSequence.toNat then
            .next ((s.setRegs (.senderC { r with
                phase := .ready, currentSequence := r.currentSequence + 1,
                timer := r.timer.cancel (unspecifiedRemaining s.params.timeoutTicks s.draws) })).emit [.done none])
          else discard s
  | _ => misaddressed s

/-- SC.TIMEOUT (R204). -/
def execScTimeout (s : State) : Result :=
  match s.regs with
  | .senderC r =>
    timeoutEvent r.timer s <|
      match r.phase with
      | .waitAck =>
        .next ((s.setRegs (.senderC { r with timer := r.timer.service.arm s.params.timeoutTicks })).emit
          [.tx r.lastPacket])
      | .ready => .next (s.setRegs (.senderC { r with timer := r.timer.service }))
  | _ => misaddressed s

/-- RC.RX (R206). -/
def execRcRx (f : Frame) (s : State) : Result :=
  match s.regs with
  | .receiverC e =>
    rxEvent .c f s <|
      onDecoded .c f s fun d =>
        if d.checksumOk = false then .next (s.emit [.tx (Codec.control .c kindAck (e - 1).toNat)])
        else if d.kind ≠ kindData then discard s
        else if d.seq = some e.toNat then
          .next ((s.setRegs (.receiverC (e + 1))).emit
            [.deliver d.payload, .tx (Codec.control .c kindAck e.toNat)])
        else .next (s.emit [.tx (Codec.control .c kindAck (e - 1).toNat)])
  | _ => misaddressed s

end Sys2Proof.Machine
end

