-- ==== Sys2Proof/Machine/VariantD.lean ====
section
/-! DEFINITION. Machine/VariantD.lean: sliding-window Go-Back-N (44_variant_D_go_back_n.md). -/

namespace Sys2Proof.Machine

/-- SD.SEND (R220): acceptance; the completion is SD.RX's. -/
def execSdSend (data : Frame) (s : State) : Result :=
  match s.regs with
  | .senderD r =>
    let p := Codec.encode .d kindData r.nextToSend.toNat data
    sendEvent (r.windowOpen s.params.n) data s <|
      .next ((s.setRegs (.senderD { r with
          buffer := r.buffer.write r.nextToSend p
          nextToSend := r.nextToSend + 1
          timer := if r.base = r.nextToSend then r.timer.arm s.params.timeoutTicks else r.timer })).emit [.tx p])
  | _ => misaddressed s

/-- R222 (e): the cumulative acknowledgment of `base .. q`, for a `q` inside the window. -/
def acknowledge (r : SenderD) (q : Seq32) (s : State) : Result :=
  let acked := seqRun r.base ((q - r.base).toNat + 1)
  let unspecified := unspecifiedRemaining s.params.timeoutTicks s.draws
  .next ((s.setRegs (.senderD { r with
      buffer := r.buffer.eraseAll acked
      base := q + 1
      timer :=
        if q + 1 = r.nextToSend then r.timer.cancel unspecified
        else r.timer.restart unspecified s.params.timeoutTicks })).emit (acked.map fun k => .done (some k)))

/-- SD.RX (R222). -/
def execSdRx (f : Frame) (s : State) : Result :=
  match s.regs with
  | .senderD r =>
    rxEvent .d f s <|
      onDecoded .d f s fun d =>
        if d.checksumOk = false then discard s
        else if d.kind ≠ kindAck then discard s
        else
          let q : Seq32 := BitVec.ofNat 32 (d.seq.getD 0)
          if r.insideWindow q then acknowledge r q s else discard s
  | _ => misaddressed s

/-- SD.TIMEOUT (R224). -/
def execSdTimeout (s : State) : Result :=
  match s.regs with
  | .senderD r =>
    timeoutEvent r.timer s <|
      if r.base = r.nextToSend then .next (s.setRegs (.senderD { r with timer := r.timer.service }))
      else
        match r.buffer.readAll (seqRun r.base r.outstanding) with
        | .error q => .fault (.bufferEntryMissing q)
        | .ok frames =>
          .next ((s.setRegs (.senderD { r with timer := r.timer.service.arm s.params.timeoutTicks })).emit
            (frames.map .tx))
  | _ => misaddressed s

/-- RD.RX (R228). -/
def execRdRx (f : Frame) (s : State) : Result :=
  match s.regs with
  | .receiverD e =>
    rxEvent .d f s <|
      onDecoded .d f s fun d =>
        if d.checksumOk = false then .next (s.emit [.tx (Codec.control .d kindAck (e - 1).toNat)])
        else if d.kind ≠ kindData then discard s
        else if d.seq = some e.toNat then
          .next ((s.setRegs (.receiverD (e + 1))).emit
            [.deliver d.payload, .tx (Codec.control .d kindAck e.toNat)])
        else .next (s.emit [.tx (Codec.control .d kindAck (e - 1).toNat)])
  | _ => misaddressed s

end Sys2Proof.Machine
end

