-- ==== Sys2Proof/Machine/Packets.lean ====
section
/-! DEFINITION. Machine/Packets.lean: the twelve packet rows (30_encoding.md R98). A packet is the operand of an RX event
(00_scope.md R14): its frame arrives and the instance handles it under its OWN role and layout, whatever the packet was
built as (R100; 70_reset_and_hazards.md R322). -/

namespace Sys2Proof.Machine

/-- RX(f) at whatever instance this is (R114, R276). -/
def arrival (f : Frame) (s : State) : Result :=
  match s.regs with
  | .unconfigured => misaddressed s
  | .senderA _ => execSaRx f s
  | .senderB _ => execSbRx f s
  | .senderC _ => execScRx f s
  | .senderD _ => execSdRx f s
  | .receiverA => execRaRx f s
  | .receiverB _ => execRbRx f s
  | .receiverC _ => execRcRx f s
  | .receiverD _ => execRdRx f s

/-- A.DATA (R90, R164). -/
def execAData (ck : Word16) (p : Frame) (s : State) : Result := arrival (wireA 0 ck p) s
/-- A.ACK (R90, R162). -/
def execAAck (ck : Word16) (p : Frame) (s : State) : Result := arrival (wireA 1 ck p) s
/-- A.NAK (R90, R162). -/
def execANak (ck : Word16) (p : Frame) (s : State) : Result := arrival (wireA 2 ck p) s
/-- B.DATA (R91, R184). -/
def execBData (q : Byte) (ck : Word16) (p : Frame) (s : State) : Result := arrival (wireBC 0 q ck p) s
/-- B.ACK (R91, R182). -/
def execBAck (q : Byte) (ck : Word16) (p : Frame) (s : State) : Result := arrival (wireBC 1 q ck p) s
/-- B.NAK (R91, R182). -/
def execBNak (q : Byte) (ck : Word16) (p : Frame) (s : State) : Result := arrival (wireBC 2 q ck p) s
/-- C.DATA (R91, R206). -/
def execCData (q : Byte) (ck : Word16) (p : Frame) (s : State) : Result := arrival (wireBC 0 q ck p) s
/-- C.ACK (R91, R202). -/
def execCAck (q : Byte) (ck : Word16) (p : Frame) (s : State) : Result := arrival (wireBC 1 q ck p) s
/-- C.NAK: legal, emitted by nobody, a wrong-type packet everywhere (R103, R202 (d), R206 (c)). -/
def execCNak (q : Byte) (ck : Word16) (p : Frame) (s : State) : Result := arrival (wireBC 2 q ck p) s
/-- D.DATA (R92, R228). -/
def execDData (q : Seq32) (ck : Word16) (p : Frame) (s : State) : Result := arrival (wireD 0 q ck p) s
/-- D.ACK (R92, R222). -/
def execDAck (q : Seq32) (ck : Word16) (p : Frame) (s : State) : Result := arrival (wireD 1 q ck p) s
/-- D.NAK: legal, emitted by nobody, a wrong-type packet everywhere (R103, R222 (c), R228 (c)). -/
def execDNak (q : Seq32) (ck : Word16) (p : Frame) (s : State) : Result := arrival (wireD 2 q ck p) s

end Sys2Proof.Machine
end

