-- ==== Sys2Proof/Machine/System.lean ====
section
/-! DEFINITION. Machine/System.lean: RESET (70_reset_and_hazards.md R310) and SHUTDOWN (60_exceptions.md R290). -/

namespace Sys2Proof.Machine

/-- The configuration is within R10 and R12 where the instance has the parameter (R282 (g), R310; log entry 21). -/
def legalCfg (cfg : Cfg) : Bool :=
  match cfg.role, cfg.variant with
  | .sender, .c => decide (1 ≤ cfg.timeoutTicks)
  | .sender, .d => decide (1 ≤ cfg.timeoutTicks) && decide (1 ≤ cfg.n) && decide (cfg.n ≤ 2 ^ 32 - 1)
  | _, _ => true

/-- Every register of the instance of role `role` and variant `v` at its reset value (R310, R39); `lastPacket` and
`remaining` are the two the spec leaves unspecified (R312) and are given by the caller. -/
def Regs.initial (role : Role) (v : Variant) (lastPacket : Frame) (remaining : Nat) : Regs :=
  let timer : Timer := { armed := false, expired := false, remaining := remaining }
  match role, v with
  | .sender, .a => .senderA { phase := .idle, lastPacket := lastPacket }
  | .sender, .b => .senderB { phase := .ready, currentSequence := 0, lastPacket := lastPacket }
  | .sender, .c => .senderC { phase := .ready, currentSequence := 0, lastPacket := lastPacket, timer := timer }
  | .sender, .d => .senderD { base := 0, nextToSend := 0, buffer := [], timer := timer }
  | .receiver, .a => .receiverA
  | .receiver, .b => .receiverB 0
  | .receiver, .c => .receiverC 0
  | .receiver, .d => .receiverD 0

/-- A new instance right after RESET(cfg): the registers as R310 says, nothing at the ports, nothing in the log.
DESIGN CHOICE (log entries 3 and 4): `last_packet` is empty and `remaining` is 0 here. -/
def State.resetOf (cfg : Cfg) : State :=
  { State.reset with
    params := { mss := cfg.mss, n := cfg.n, timeoutTicks := cfg.timeoutTicks }
    regs := Regs.initial cfg.role cfg.variant [] 0 }

/-- An instance that no RESET has reached yet (R282 (f)): no role, no variant, not running. -/
def State.powerOn : State := { State.reset with running := false, regs := .unconfigured }

/-- RESET(cfg) (R310): configuration sampled, `running` set, the registers of the role and variant at their reset values,
`last_packet` and `remaining` unspecified. No output; pending and held SENDs are forgotten (log entry 9). -/
def execReset (cfg : Cfg) (s : State) : Result :=
  if legalCfg cfg then
    .next { s with
      params := { mss := cfg.mss, n := cfg.n, timeoutTicks := cfg.timeoutTicks }
      running := true
      regs := Regs.initial cfg.role cfg.variant (unspecifiedPacket cfg.variant cfg.mss s.draws)
        (unspecifiedRemaining cfg.timeoutTicks s.draws)
      held := [] }
  else .refused .badConfiguration

/-- What SHUTDOWN does to the registers: the timer is cancelled, the buffer of a variant-D sender is emptied (R290). -/
def shutdownRegs (unspecified : Nat) : Regs → Regs
  | .senderC r => .senderC { r with timer := r.timer.cancel unspecified }
  | .senderD r => .senderD { r with timer := r.timer.cancel unspecified, buffer := [] }
  | r => r

/-- SHUTDOWN (R290). -/
def execShutdown (r : Role) (v : Variant) (s : State) : Result :=
  if s.regs.identity = some (r, v) then
    .next { s with
      running := false
      regs := shutdownRegs (unspecifiedRemaining s.params.timeoutTicks s.draws) s.regs }
  else misaddressed s

end Sys2Proof.Machine
end

