-- ==== Sys2Proof/Machine/Timer.lean ====
section
/-! DEFINITION. Machine/Timer.lean: the retransmission timer's operations (45_retransmission_timer.md). TMR.TICK is an input
event; the others are micro-operations of the handlers, given here as operations of their own (log entry 14). -/

namespace Sys2Proof.Machine

/-- TMR.ARM (R252). -/
def execTmrArm (v : TimedVariant) (s : State) : Result := onTimer v s (Timer.arm s.params.timeoutTicks)

/-- TMR.CANCEL (R254). -/
def execTmrCancel (v : TimedVariant) (s : State) : Result :=
  onTimer v s (Timer.cancel (unspecifiedRemaining s.params.timeoutTicks s.draws))

/-- TMR.RESTART (R256). -/
def execTmrRestart (v : TimedVariant) (s : State) : Result :=
  onTimer v s (Timer.restart (unspecifiedRemaining s.params.timeoutTicks s.draws) s.params.timeoutTicks)

/-- TMR.TICK (R258), discarded while `running = 0` (R290). -/
def execTmrTick (v : TimedVariant) (s : State) : Result :=
  onTimer v s (if s.running then Timer.tick else id)

end Sys2Proof.Machine
end

