-- ==== Sys2Proof/Machine/Dispatch.lean ====
section
/-! DEFINITION. Machine/Dispatch.lean: one arm per constructor of Instr. -/

namespace Sys2Proof.Machine

def exec (i : Instr) (s : State) : Host.Outcome State Fault Refusal :=
  match i with
  | .aData ck p => Sys2Proof.Machine.execAData ck p s
  | .aAck ck p => Sys2Proof.Machine.execAAck ck p s
  | .aNak ck p => Sys2Proof.Machine.execANak ck p s
  | .bData q ck p => Sys2Proof.Machine.execBData q ck p s
  | .bAck q ck p => Sys2Proof.Machine.execBAck q ck p s
  | .bNak q ck p => Sys2Proof.Machine.execBNak q ck p s
  | .cData q ck p => Sys2Proof.Machine.execCData q ck p s
  | .cAck q ck p => Sys2Proof.Machine.execCAck q ck p s
  | .cNak q ck p => Sys2Proof.Machine.execCNak q ck p s
  | .dData q ck p => Sys2Proof.Machine.execDData q ck p s
  | .dAck q ck p => Sys2Proof.Machine.execDAck q ck p s
  | .dNak q ck p => Sys2Proof.Machine.execDNak q ck p s
  | .csum16 _ _ bs => Sys2Proof.Machine.execCsum16 bs s
  | .seqEnc _ v q => Sys2Proof.Machine.execSeqEnc v q s
  | .seqDec _ v sb => Sys2Proof.Machine.execSeqDec v sb s
  | .encode _ v k q p => Sys2Proof.Machine.execEncode v k q p s
  | .decode _ v f => Sys2Proof.Machine.execDecode v f s
  | .saSend data => Sys2Proof.Machine.execSaSend data s
  | .sbSend data => Sys2Proof.Machine.execSbSend data s
  | .scSend data => Sys2Proof.Machine.execScSend data s
  | .sdSend data => Sys2Proof.Machine.execSdSend data s
  | .saRx f => Sys2Proof.Machine.execSaRx f s
  | .raRx f => Sys2Proof.Machine.execRaRx f s
  | .sbRx f => Sys2Proof.Machine.execSbRx f s
  | .rbRx f => Sys2Proof.Machine.execRbRx f s
  | .scRx f => Sys2Proof.Machine.execScRx f s
  | .rcRx f => Sys2Proof.Machine.execRcRx f s
  | .sdRx f => Sys2Proof.Machine.execSdRx f s
  | .rdRx f => Sys2Proof.Machine.execRdRx f s
  | .scTimeout => Sys2Proof.Machine.execScTimeout s
  | .sdTimeout => Sys2Proof.Machine.execSdTimeout s
  | .tmrArm v => Sys2Proof.Machine.execTmrArm v s
  | .tmrCancel v => Sys2Proof.Machine.execTmrCancel v s
  | .tmrRestart v => Sys2Proof.Machine.execTmrRestart v s
  | .tmrTick v => Sys2Proof.Machine.execTmrTick v s
  | .reset cfg => Sys2Proof.Machine.execReset cfg s
  | .shutdown r v => Sys2Proof.Machine.execShutdown r v s

end Sys2Proof.Machine
end

