-- ==== Sys2Proof/Machine/Port.lean ====
section
/-! DEFINITION. Machine/Port.lean: which event an instance handles next (60_exceptions.md R276, R278) and how the input
port's slot becomes an instruction. -/

namespace Sys2Proof.Machine

/-- The sender can accept a SEND now (R160, R180, R200, R220: what lifts a `hold`). -/
def State.canAccept (s : State) : Bool :=
  match s.regs with
  | .senderA r => r.phase == .idle
  | .senderB r => r.phase == .ready
  | .senderC r => r.phase == .ready
  | .senderD r => r.windowOpen s.params.n
  | _ => false

/-- The instance's `expired` flag; false where there is no timer (R250). -/
def Regs.expired : Regs → Bool
  | .senderC r => r.timer.expired
  | .senderD r => r.timer.expired
  | _ => false

/-- The SEND operation of a sender. -/
def Regs.sendInstr (r : Regs) (data : Frame) : Option Instr :=
  match r.identity with
  | some (.sender, .a) => some (.saSend data)
  | some (.sender, .b) => some (.sbSend data)
  | some (.sender, .c) => some (.scSend data)
  | some (.sender, .d) => some (.sdSend data)
  | _ => none

/-- The TIMEOUT operation of a timed sender. -/
def Regs.timeoutInstr (r : Regs) : Option Instr :=
  match r.identity with
  | some (.sender, .c) => some .scTimeout
  | some (.sender, .d) => some .sdTimeout
  | _ => none

/-- A source offers an event: the port when something is presented; a held SEND when the sender can accept it, or when
it is to be discarded (R290); TIMEOUT exactly while `expired = 1` (R260). -/
def State.available (s : State) : Source → Bool
  | .port => !s.inbox.isEmpty
  | .held => !s.held.isEmpty && (s.regs.sendInstr []).isSome && (!s.running || s.canAccept)
  | .timeout => s.running && s.regs.expired

/-- DESIGN CHOICE (log entry 8): the order when the schedule says nothing. A pending TIMEOUT is served first, so that an
enabled TIMEOUT is taken (R340 (a)). -/
def State.defaultSource (s : State) : Option Source :=
  if s.available .timeout then some .timeout
  else if s.available .held then some .held
  else if s.available .port then some .port
  else none

/-- The source served next: the scheduled one if it offers an event (R278: any order). -/
def State.source (s : State) : Option Source :=
  match s.schedule with
  | src :: _ => if s.available src then some src else s.defaultSource
  | [] => s.defaultSource

/-- One event is taken: the schedule and the index of the free values move on. -/
def State.taken (s : State) : State := { s with schedule := s.schedule.tail, draws := s.draws + 1 }

/-- A slot as an instruction for this instance. A frame is its packet row under the instance's layout (R100); a frame of
no row (short, or an unassigned kind) is the instance's RX operation on its bytes (R101, R104). -/
def fetch (r : Regs) : Slot → Except Refusal Instr
  | .wire f =>
    match r.identity with
    | none => .error .beforeReset
    | some (role, v) =>
      match decodeFrame v f with
      | .ok i => .ok i
      | .error _ => .ok (rxInstr role v f)
  | .op bs =>
    match decodeOp bs with
    | .ok i => .ok i
    | .error e => .error (.undecodable e)

/-- The instruction that runs next and the state it runs in; none when no event is available. -/
def State.nextInstr (s : State) : Except Refusal (Option (Instr × State)) :=
  match s.source with
  | none => .ok none
  | some .port =>
    match s.inbox with
    | [] => .ok none
    | slot :: rest =>
      match fetch s.regs slot with
      | .error e => .error e
      | .ok i => .ok (some (i, { s.taken with inbox := rest }))
  | some .held =>
    match s.held with
    | [] => .ok none
    | data :: rest =>
      match s.regs.sendInstr data with
      | none => .ok none
      | some i => .ok (some (i, { s.taken with held := rest }))
  | some .timeout =>
    match s.regs.timeoutInstr with
    | none => .ok none
    | some i => .ok (some (i, s.taken))

/-! ### Placing a table word at the port -/

/-- The instance an operation is addressed to; none where the instruction runs at any instance. -/
def addressee : Instr → Option (Role × Variant)
  | .saSend _ | .saRx _ => some (.sender, .a)
  | .sbSend _ | .sbRx _ => some (.sender, .b)
  | .scSend _ | .scRx _ | .scTimeout => some (.sender, .c)
  | .sdSend _ | .sdRx _ | .sdTimeout => some (.sender, .d)
  | .raRx _ => some (.receiver, .a)
  | .rbRx _ => some (.receiver, .b)
  | .rcRx _ => some (.receiver, .c)
  | .rdRx _ => some (.receiver, .d)
  | .tmrArm v | .tmrCancel v | .tmrRestart v | .tmrTick v => some (.sender, v.variant)
  | .shutdown r v => some (r, v)
  | _ => none

/-- The instance made one of role `role` and variant `v`, unless it is one already. -/
def Regs.asInstance (r : Regs) (role : Role) (v : Variant) : Regs :=
  if r.identity = some (role, v) then r else Regs.initial role v [] 0

/-- `expired` set, so that the internal event TIMEOUT is enabled. -/
def Regs.withExpired : Regs → Regs
  | .senderC r => .senderC { r with timer := { r.timer with expired := true } }
  | .senderD r => .senderD { r with timer := { r.timer with expired := true } }
  | r => r

/-- The registers that let the slot's instruction be the next event: the instance it is addressed to, the layout its
frame is read under (role kept), `expired` for the internal event (log entry 29). -/
def Regs.selectedFor (r : Regs) (v : Variant) (slot : Slot) : Regs :=
  match slot with
  | .wire _ =>
    match r.identity with
    | some (role, _) => r.asInstance role v
    | none => r.asInstance .sender v
  | .op bs =>
    match decodeOp bs with
    | .error _ => r
    | .ok i =>
      match addressee i with
      | none => r
      | some (role, v) =>
        match i with
        | .scTimeout | .sdTimeout => (r.asInstance role v).withExpired
        | _ => r.asInstance role v

/-- The word's slot is presented at the port and served next (log entry 29). -/
def placeWord (s : State) (nbits w : Nat) : State :=
  match tableSlot nbits w with
  | none => s
  | some (v, slot) =>
    { s with regs := s.regs.selectedFor v slot, inbox := slot :: s.inbox, schedule := .port :: s.schedule }

end Sys2Proof.Machine
end

