-- ==== Sys2Proof/Machine/Step.lean ====
section
/-! DEFINITION. Machine/Step.lean: one step of an instance: one event, handled atomically (20_memory.md R72). -/

namespace Sys2Proof.Machine

/-- One step: the next event's instruction runs. An instance with no event to handle waits, every register keeping its
value (60_exceptions.md R296). -/
def step (s : State) : Host.Outcome State Fault Refusal :=
  match s.nextInstr with
  | .error e => .refused e
  | .ok none => .next s
  | .ok (some (i, t)) => exec i t

/-- `s` with a table word's instruction as the next event (log entries 7 and 29). -/
def State.withFetchWord (s : State) (nbits w : Nat) : State := placeWord s nbits w

end Sys2Proof.Machine
end

