-- ==== Sys2Proof/Machine/Causes.lean ====
section
/-! DEFINITION. Machine/Causes.lean: the error taxonomy (60_exceptions.md R270 to R274, R279) as an observer of a received
frame. The handlers do not read it; statements do. -/

namespace Sys2Proof.Machine

/-- The four causes (R270 to R273). Only the first is raised as an output; the fourth is never met (R273). -/
inductive Cause where
  | framing
  | checksum
  | sequence
  | timeoutExhaustion
  deriving DecidableEq, Repr

/-- The cause codes (R270, D24). -/
def Cause.code : Cause → Nat
  | .framing => 1
  | .checksum => 2
  | .sequence => 3
  | .timeoutExhaustion => 4

/-- A valid packet of the kind the instance wants whose sequence is not the one it wants (R272). -/
def sequenceMismatch (r : Regs) (d : Decoded) : Bool :=
  match r with
  | .senderB b => (d.kind == kindAck || d.kind == kindNak) && d.seq != some b.currentSequence.toNat
  | .senderC c => d.kind == kindAck && d.seq != some c.currentSequence.toNat
  | .senderD w => d.kind == kindAck && !w.insideWindow (BitVec.ofNat 32 (d.seq.getD 0))
  | .receiverB e => d.kind == kindData && d.seq != some e.toNat
  | .receiverC e => d.kind == kindData && d.seq != some e.toNat
  | .receiverD e => d.kind == kindData && d.seq != some e.toNat
  | .unconfigured => false
  | .senderA _ => false
  | .receiverA => false

/-- The cause a frame meets at an instance, the tests in the order of R279: length, checksum, kind, sequence. -/
def frameCause (r : Regs) (f : Frame) : Option Cause :=
  match r.identity with
  | none => none
  | some (_, v) =>
    match Codec.decode v f with
    | .error _ => some .framing
    | .ok d =>
      if d.checksumOk = false then some .checksum
      else if sequenceMismatch r d then some .sequence
      else none

end Sys2Proof.Machine
end

