-- ==== Sys2Proof/Machine/Permitted.lean ====
section
/-! DEFINITION. Machine/Permitted.lean: two implementations the spec permits beside the ones the machine runs: the timer as a
monotonic deadline (45_retransmission_timer.md R264; 20_memory.md R75) and the in-flight buffer as a ring of N slots
(20_memory.md R63, D37). The machine does not use them; statements compare them with it. -/

namespace Sys2Proof.Machine

/-- What is asked of a timer: the operations of R252 to R258 and the servicing of an expiry by a TIMEOUT handler. -/
inductive TimerOp where
  | arm
  | cancel
  | restart
  | tick
  | service
  deriving DecidableEq, Repr

/-- The deadline form (R264): a stored deadline in place of `remaining`, TICK is the advance of `now`. -/
structure DeadlineTimer where
  armed : Bool
  deadline : Nat
  now : Nat
  deriving DecidableEq, Repr

/-- "now >= deadline", evaluated by the sender (R264). -/
def DeadlineTimer.expired (d : DeadlineTimer) : Bool := d.armed && decide (d.deadline ≤ d.now)

/-- Armed and not yet expired: what the countdown calls `armed`. -/
def DeadlineTimer.counting (d : DeadlineTimer) : Bool := d.armed && decide (d.now < d.deadline)

/-- One operation on the deadline form. -/
def DeadlineTimer.run (ticks : Nat) (d : DeadlineTimer) : TimerOp → DeadlineTimer
  | .arm => { d with armed := true, deadline := d.now + ticks }
  | .cancel => { d with armed := false }
  | .restart => { d with armed := true, deadline := d.now + ticks }
  | .tick => { d with now := d.now + 1 }
  | .service => if d.expired then { d with armed := false } else d

/-- One operation on the machine's countdown; `unspecified` is what TMR.CANCEL leaves in `remaining`. -/
def Timer.run (unspecified ticks : Nat) (t : Timer) : TimerOp → Timer
  | .arm => t.arm ticks
  | .cancel => t.cancel unspecified
  | .restart => t.restart unspecified ticks
  | .tick => t.tick
  | .service => t.service

/-- The slot of a sequence in a ring of `n` slots (R63). -/
def ringSlot (n : Nat) (q : Seq32) : Nat := q.toNat % n

end Sys2Proof.Machine
end

