-- ==== Sys2Proof/Machine/Session.lean ====
section
/-! DEFINITION. Machine/Session.lean: a session: one sender instance, one receiver instance and the channel between them
(60_exceptions.md R294, R300 to R303). The instances are States and run `exec`; they share nothing but frames (10_state.md
R22; 20_memory.md R74). The channel, the application and the host are the environment: what they do next is an `Action`,
plain data, and any interleaving of the handlers of R72 on the two sides is a list of actions. -/

namespace Sys2Proof.Machine

/-- Two instances, the frames in flight each way, and the application's record of the payloads whose SEND was accepted. -/
structure Session where
  sender : State
  receiver : State
  toReceiver : List Frame
  toSender : List Frame
  sent : List Frame
  deriving DecidableEq, Repr

/-- One move of the environment or of the sender's own timer context (R20, R300 to R303). `k` names a frame in
flight: any of them may be next, so delay and reordering are choices of `k`. `changes` are the bytes the channel
changes. -/
inductive Action where
  | send (data : Frame)
  | resume                        -- a held SEND is taken when the sender can accept it
  | tick
  | timeout
  | deliverToReceiver (k : Nat) (changes : List (Nat × Byte))
  | deliverToSender (k : Nat) (changes : List (Nat × Byte))
  | dropToReceiver (k : Nat)
  | dropToSender (k : Nat)
  | reset (side : Role) (cfg : Cfg)   -- the host resets one side (R294, R302, R310)
  | shutdown (side : Role)            -- the host shuts one side down (R290)
  deriving DecidableEq, Repr

/-- The frame an output hands to the channel. -/
def Output.frame : Output → Option Frame
  | .tx f => some f
  | _ => none

/-- The payload an output hands to the application. -/
def Output.payload : Output → Option Frame
  | .deliver p => some p
  | _ => none

/-- The frames a handler transmitted (R38 (c): Tx emits at once). -/
def transmitted (before after : State) : List Frame :=
  (after.outputs.drop before.outputs.length).filterMap Output.frame

/-- The payloads an instance has delivered, in order. -/
def State.delivered (s : State) : List Frame := s.outputs.filterMap Output.payload

/-- The output is a completion. -/
def Output.isDone : Output → Bool
  | .done _ => true
  | _ => false

/-- How many SENDs have completed. -/
def State.completions (s : State) : Nat := (s.outputs.filter Output.isDone).length

/-- The frame with the channel's byte changes; its length stays (R300). -/
def alter (changes : List (Nat × Byte)) (f : Frame) : Frame := changes.foldl (fun g c => g.set c.1 c.2) f

/-- The sender after a handler; its frames enter the channel. -/
def Session.afterSender (w : Session) : Result → Option Session
  | .next t => some { w with sender := t, toReceiver := w.toReceiver ++ transmitted w.sender t }
  | .fault _ => none
  | .refused _ => none

/-- The receiver after a handler; its frames enter the channel. -/
def Session.afterReceiver (w : Session) : Result → Option Session
  | .next t => some { w with receiver := t, toSender := w.toSender ++ transmitted w.receiver t }
  | .fault _ => none
  | .refused _ => none

/-- A SEND presented to the sender: the payload counts as sent when it is accepted, not while it is held. -/
def Session.present (w : Session) (data : Frame) : Option Session :=
  match w.sender.regs.sendInstr data with
  | none => none
  | some i =>
    let w' := if w.sender.running && w.sender.canAccept then { w with sent := w.sent ++ [data] } else w
    w'.afterSender (exec i w.sender)

/-- One action; none where it is not possible: nothing in flight to take, more than 5 bytes changed, or an event the
instance refuses (R282). Each side has its own RESET, independent of the other's (R294); its configuration has the role of
the side (log entry 38). -/
def Session.act (w : Session) : Action → Option Session
  | .send data => w.present data
  | .resume =>
    match w.sender.held with
    | [] => none
    | data :: rest =>
      if w.sender.available .held then Session.present { w with sender := { w.sender with held := rest } } data else none
  | .tick =>
    match w.sender.regs with
    | .senderC _ => w.afterSender (exec (.tmrTick .c) w.sender)
    | .senderD _ => w.afterSender (exec (.tmrTick .d) w.sender)
    | _ => none
  | .timeout =>
    match w.sender.regs.timeoutInstr with
    | none => none
    | some i => w.afterSender (exec i w.sender)
  | .deliverToReceiver k changes =>
    match w.toReceiver[k]? with
    | none => none
    | some f =>
      if changes.length ≤ 5 then
        Session.afterReceiver { w with toReceiver := w.toReceiver.eraseIdx k } (arrival (alter changes f) w.receiver)
      else none
  | .deliverToSender k changes =>
    match w.toSender[k]? with
    | none => none
    | some f =>
      if changes.length ≤ 5 then
        Session.afterSender { w with toSender := w.toSender.eraseIdx k } (arrival (alter changes f) w.sender)
      else none
  | .dropToReceiver k => if k < w.toReceiver.length then some { w with toReceiver := w.toReceiver.eraseIdx k } else none
  | .dropToSender k => if k < w.toSender.length then some { w with toSender := w.toSender.eraseIdx k } else none
  | .reset .sender cfg => if cfg.role = .sender then w.afterSender (exec (.reset cfg) w.sender) else none
  | .reset .receiver cfg => if cfg.role = .receiver then w.afterReceiver (exec (.reset cfg) w.receiver) else none
  | .shutdown .sender =>
    match w.sender.regs.identity with
    | none => none
    | some (role, v) => w.afterSender (exec (.shutdown role v) w.sender)
  | .shutdown .receiver =>
    match w.receiver.regs.identity with
    | none => none
    | some (role, v) => w.afterReceiver (exec (.shutdown role v) w.receiver)

/-- Actions one after another; none as soon as one is not possible. -/
def Session.run (w : Session) : List Action → Option Session
  | [] => some w
  | a :: as =>
    match w.act a with
    | none => none
    | some w' => w'.run as

/-- The configuration of one side of a session with one VARIANT, MSS, N and TIMEOUT_TICKS (R302, R322). -/
def sideCfg (side : Role) (v : Variant) (p : Params) : Cfg :=
  { variant := v, role := side, mss := p.mss, n := p.n, timeoutTicks := p.timeoutTicks }

/-- The host's RESET of one side for such a session. -/
def Action.resetFor (side : Role) (v : Variant) (p : Params) : Action := .reset side (sideCfg side v p)

/-- Two instances that no RESET has reached yet; each starts by its own (R294). -/
def Session.powerOn : Session :=
  { sender := State.powerOn, receiver := State.powerOn, toReceiver := [], toSender := [], sent := [] }

/-- Both sides RESET together with one VARIANT and one MSS, the channel empty (R302, R320, R322). -/
def Session.fresh (v : Variant) (p : Params) : Session :=
  { sender := State.resetOf (sideCfg .sender v p)
    receiver := State.resetOf (sideCfg .receiver v p)
    toReceiver := []
    toSender := []
    sent := [] }

end Sys2Proof.Machine
end

