-- ==== Sys2Proof/Safety.lean ====
section
/-! DEFINITION. Safety.lean: what counts as a sound state of an instance and as a safe session; the terms the statements
use. -/

namespace Sys2Proof.Machine

/-! ### One instance -/

/-- The timer's registers: never both flags (R258), `remaining` within 0..TIMEOUT_TICKS (R33), a running countdown not at
0. -/
def Timer.Sound (ticks : Nat) (t : Timer) : Prop :=
  ¬ (t.armed = true ∧ t.expired = true) ∧ t.remaining ≤ ticks ∧ (t.armed = true → 0 < t.remaining)

/-- `f` is a DATA frame that SEND builds for sequence `q` with a payload of at most `mss` bytes (R62, R63). -/
def IsDataFrame (v : Variant) (q mss : Nat) (f : Frame) : Prop :=
  ∃ p : Frame, p.length ≤ mss ∧ f = Codec.encode v kindData q p

/-- The keys of the buffer are exactly the window `[base, next_to_send)`, and each holds the DATA frame of its sequence
(R226 (2), (3)). -/
def SenderD.BufferIsWindow (mss : Nat) (r : SenderD) : Prop :=
  ∀ q : Seq32,
    match r.buffer.read q with
    | some f => r.insideWindow q = true ∧ IsDataFrame .d q.toNat mss f
    | none => r.insideWindow q = false

/-- What every step of an instance keeps. A waiting sender of A, B or C holds the DATA frame of its current sequence
(R62, R76); a timer is sound; a variant-D buffer is in canonical form, holds at most N packets' window, and while the
instance runs is exactly the window (R63, R226 (1) to (3)). SHUTDOWN empties the buffer and leaves `base` and
`next_to_send`, so the last clause is about a running instance (log entry 23). -/
def State.Sound (s : State) : Prop :=
  match s.regs with
  | .unconfigured => True
  | .senderA r => r.phase = .awaitingResponse → IsDataFrame .a 0 s.params.mss r.lastPacket
  | .senderB r => r.phase = .waitAck → IsDataFrame .b r.currentSequence.toNat s.params.mss r.lastPacket
  | .senderC r =>
    1 ≤ s.params.timeoutTicks ∧ r.timer.Sound s.params.timeoutTicks ∧
      (r.phase = .waitAck → IsDataFrame .c r.currentSequence.toNat s.params.mss r.lastPacket)
  | .senderD r =>
    1 ≤ s.params.timeoutTicks ∧ 1 ≤ s.params.n ∧ s.params.n ≤ 2 ^ 32 - 1 ∧ r.timer.Sound s.params.timeoutTicks ∧
      r.buffer.wf ∧ r.outstanding ≤ s.params.n ∧ (s.running = true → r.BufferIsWindow s.params.mss)
  | .receiverA => True
  | .receiverB _ => True
  | .receiverC _ => True
  | .receiverD _ => True

/-- While the instance runs, the timer is idle exactly when nothing is outstanding, and otherwise exactly one of `armed`
and `expired` is 1 (R226 (4) for D; R204's argument for C). -/
def State.TimerTracksOutstanding (s : State) : Prop :=
  s.running = true →
    match s.regs with
    | .senderC r =>
      (r.phase = .ready → r.timer.armed = false ∧ r.timer.expired = false) ∧
        (r.phase = .waitAck → r.timer.armed = !r.timer.expired)
    | .senderD r =>
      (r.outstanding = 0 → r.timer.armed = false ∧ r.timer.expired = false) ∧
        (0 < r.outstanding → r.timer.armed = !r.timer.expired)
    | _ => True

/-- The instructions whose meaning is an event's handler or a pure function; TMR.ARM, TMR.CANCEL and TMR.RESTART are
micro-operations inside handlers (R252 to R256) and are not. -/
def isMicroOperation : Instr → Bool
  | .tmrArm _ => true
  | .tmrCancel _ => true
  | .tmrRestart _ => true
  | _ => false

/-- The instruction is the arrival of a frame: a packet row or an RX operation. -/
def isReception : Instr → Bool
  | .aData .. | .aAck .. | .aNak .. => true
  | .bData .. | .bAck .. | .bNak .. => true
  | .cData .. | .cAck .. | .cNak .. => true
  | .dData .. | .dAck .. | .dNak .. => true
  | .saRx .. | .raRx .. | .sbRx .. | .rbRx .. => true
  | .scRx .. | .rcRx .. | .sdRx .. | .rdRx .. => true
  | .csum16 .. | .seqEnc .. | .seqDec .. | .encode .. | .decode .. => false
  | .saSend .. | .sbSend .. | .scSend .. | .sdSend .. => false
  | .scTimeout | .sdTimeout => false
  | .tmrArm .. | .tmrCancel .. | .tmrRestart .. | .tmrTick .. => false
  | .reset .. | .shutdown .. => false

/-- The pending sends of a variant-D sender: exactly the key set of `buffer` (R27). -/
def SenderD.pendingSends (r : SenderD) : List Seq32 := r.buffer.map Prod.fst

/-- The sender has a SEND accepted and not completed (R27): for A, B and C exactly while it waits, for D exactly while
`buffer` has a key. -/
def Regs.sendPending : Regs → Bool
  | .senderA r => r.phase == .awaitingResponse
  | .senderB r => r.phase == .waitAck
  | .senderC r => r.phase == .waitAck
  | .senderD r => !r.pendingSends.isEmpty
  | _ => false

/-! ### Sessions -/

/-- Every byte change of this action leaves the frame as it was or is caught by the checksum (the proviso of R338). -/
def Action.DetectedIn (v : Variant) (w : Session) : Action → Prop
  | .deliverToReceiver k changes =>
    ∀ f, w.toReceiver[k]? = some f →
      alter changes f = f ∨ ∃ d, Codec.decode v (alter changes f) = .ok d ∧ d.checksumOk = false
  | .deliverToSender k changes =>
    ∀ f, w.toSender[k]? = some f →
      alter changes f = f ∨ ∃ d, Codec.decode v (alter changes f) = .ok d ∧ d.checksumOk = false
  | _ => True

/-- No frame is lost and no control frame is changed (what variants A and B assume, R300). -/
def Action.keepsControl : Action → Bool
  | .dropToReceiver _ => false
  | .dropToSender _ => false
  | .deliverToSender _ changes => changes.isEmpty
  | _ => true

/-- The host resets a side (what the exactly-once rules shut out in mid-session, R302, R324). -/
def Action.isReset : Action → Bool
  | .reset _ _ => true
  | _ => false

/-- `w'` is reached from `w` by actions that each satisfy `ok` in the session they act on. -/
inductive Session.Reaches (ok : Session → Action → Prop) : Session → Session → Prop where
  | refl (w : Session) : Session.Reaches ok w w
  | step {w w' w'' : Session} (a : Action) (earlier : Session.Reaches ok w w') (allowed : ok w' a)
      (acts : w'.act a = some w'') : Session.Reaches ok w w''

/-- Delivered so far: a beginning of what was sent, in order, without duplicates and without gaps (R186, R208, R230). -/
def Session.InOrderExactlyOnce (w : Session) : Prop := w.receiver.delivered <+: w.sent

/-- Every payload of the list was sent and delivered, in order, once each, and every SEND has completed (R340). -/
def Session.AllDelivered (payloads : List Frame) (w : Session) : Prop :=
  w.sent = payloads ∧ w.receiver.delivered = payloads ∧ w.sender.completions = payloads.length ∧
    w.sender.regs.sendPending = false

/-- The actions that carry one payload across a perfect channel and its acknowledgment back. -/
def perfectRound (data : Frame) : List Action := [.send data, .deliverToReceiver 0 [], .deliverToSender 0 []]

end Sys2Proof.Machine
end

