-- ==== Sys2Proof/Certificates/Slice0/Obligations.lean ====
section
/-! DEFINITION. Certificates/Slice0/Obligations.lean: the statements for the provers. Rules R<n> are spec/'s. -/

open Sys2Proof Sys2Proof.Machine

/-! ### The codec (40_codec.md) -/

/-- R130: CSUM16 completes in every state and returns 0xFFFF minus the byte total modulo 2^16; it changes nothing else. -/
def Obligations.ChecksumIsComplementedByteSum : Prop :=
  ∀ (r : Role) (v : Variant) (bs : Frame) (s : State),
    ∃ c : Word16,
      exec (.csum16 r v bs) s = .next { s with result := .checksum c } ∧
        c.toNat = 0xFFFF - (bs.map BitVec.toNat).sum % 2 ^ 16

/-- R134: SEQ_ENC completes on its domain with SW(V) bytes, most significant first for D, and is refused outside it. -/
def Obligations.SequenceEncoderByVariant : Prop :=
  ∀ (r : Role) (q : Seq32) (s : State),
    exec (.seqEnc r .a q) s = .next { s with result := .bytes [] } ∧
    (q.toNat < 2 → exec (.seqEnc r .b q) s = .next { s with result := .bytes [q.extractLsb' 0 8] }) ∧
    (2 ≤ q.toNat → exec (.seqEnc r .b q) s = .refused .sequenceOutsideDomain) ∧
    (q.toNat < 256 → exec (.seqEnc r .c q) s = .next { s with result := .bytes [q.extractLsb' 0 8] }) ∧
    (256 ≤ q.toNat → exec (.seqEnc r .c q) s = .refused .sequenceOutsideDomain) ∧
    exec (.seqEnc r .d q) s =
      .next { s with result := .bytes [q.extractLsb' 24 8, q.extractLsb' 16 8, q.extractLsb' 8 8, q.extractLsb' 0 8] }

/-- R136: SEQ_DEC completes on SW(V) bytes, unmasked for B and C, big-endian for D, and undoes SEQ_ENC on the domain. What
another number of bytes does is open in the spec (log entry 39) and not stated. -/
def Obligations.SequenceDecoderUnmasked : Prop :=
  (∀ (r : Role) (b3 b2 b1 b0 : Byte) (s : State),
    exec (.seqDec r .a []) s = .next { s with result := .sequence none } ∧
    exec (.seqDec r .b [b0]) s = .next { s with result := .sequence (some b0.toNat) } ∧
    exec (.seqDec r .c [b0]) s = .next { s with result := .sequence (some b0.toNat) } ∧
    exec (.seqDec r .d [b3, b2, b1, b0]) s =
      .next { s with
        result := .sequence (some (b3.toNat * 2 ^ 24 + b2.toNat * 2 ^ 16 + b1.toNat * 2 ^ 8 + b0.toNat)) }) ∧
  (∀ q : Nat,
    (q < 2 → Codec.seqDec .b (Codec.seqEnc .b q) = some q) ∧
    (q < 256 → Codec.seqDec .c (Codec.seqEnc .c q) = some q) ∧
    (q < 2 ^ 32 → Codec.seqDec .d (Codec.seqEnc .d q) = some q))

/-- R140, R94: at a configured instance, ENCODE completes on its domain: kind, sequence, checksum high byte, checksum low
byte, payload; the checksum is the complemented total of kind, sequence and payload bytes. -/
def Obligations.EncodeLaysOutFrame : Prop :=
  ∀ (r : Role) (v : Variant) (kind : Byte) (q : Seq32) (p : Frame) (s : State),
    s.regs ≠ .unconfigured → kind.toNat ≤ 2 → seqInDomain v q.toNat = true → p.length ≤ s.params.mss →
    ∃ c : Word16,
      c.toNat = 0xFFFF - ((kind :: (Codec.seqEnc v q.toNat ++ p)).map BitVec.toNat).sum % 2 ^ 16 ∧
      exec (.encode r v kind q p) s =
        .next { s with
          result := .bytes ([kind] ++ Codec.seqEnc v q.toNat ++ [c.extractLsb' 8 8, c.extractLsb' 0 8] ++ p) }

/-- R144: DECODE of a frame shorter than the header raises FramingError with its length; of any other frame it returns
the fields at their offsets, and `checksum_ok` by equality of the stored and the recomputed checksum. -/
def Obligations.DecodeReadsFields : Prop :=
  ∀ (r : Role) (v : Variant) (f : Frame) (s : State),
    (f.length < headerSize v →
      exec (.decode r v f) s = .next { s with outputs := s.outputs ++ [.framingError f.length] }) ∧
    (headerSize v ≤ f.length →
      ∃ d : Decoded,
        exec (.decode r v f) s = .next { s with result := .packet d } ∧
        f.head? = some d.kind ∧
        d.seq = (if v = .a then none else some (ube ((f.drop 1).take (seqWidth v)))) ∧
        d.payload = f.drop (headerSize v) ∧
        (d.checksumOk = true ↔
          ube ((f.drop (1 + seqWidth v)).take 2) =
            0xFFFF - ((f.take (1 + seqWidth v) ++ d.payload).map BitVec.toNat).sum % 2 ^ 16))

/-- R150: DECODE undoes ENCODE, with `checksum_ok` true. -/
def Obligations.CodecRoundTrip : Prop :=
  ∀ (v : Variant) (kind : Byte) (q : Nat) (p : Frame),
    kind.toNat ≤ 2 → seqInDomain v q = true →
    Codec.decode v (Codec.encode v kind q p) =
      .ok { kind := kind, seq := (if v = .a then none else some q), checksumOk := true, payload := p }

/-- R151: a frame of ENCODE with exactly one byte changed is always found invalid. -/
def Obligations.SingleByteChangeDetected : Prop :=
  ∀ (v : Variant) (kind : Byte) (q : Nat) (p : Frame) (i : Nat) (b : Byte),
    kind.toNat ≤ 2 → seqInDomain v q = true → i < (Codec.encode v kind q p).length →
    (Codec.encode v kind q p)[i]? ≠ some b →
    ∃ d, Codec.decode v ((Codec.encode v kind q p).set i b) = .ok d ∧ d.checksumOk = false

/-- Derived from R130, R132, R144 (the principle behind R152 (a) to (d)): two frames whose covered bytes and stored
checksum have the same total modulo 2^16 are both valid or both invalid. -/
def Obligations.ChecksumSeesOnlyTheTotal : Prop :=
  ∀ (v : Variant) (f g : Frame) (d e : Decoded),
    Codec.decode v f = .ok d → Codec.decode v g = .ok e →
    (((covered v f).map BitVec.toNat).sum + ube (memRead f (headerSize v - 2) 2)) % 2 ^ 16 =
      (((covered v g).map BitVec.toNat).sum + ube (memRead g (headerSize v - 2) 2)) % 2 ^ 16 →
    d.checksumOk = e.checksumOk

/-- R153: ENCODE is injective for a fixed variant, DECODE is total on frames of at least H bytes and raises on the rest,
and valid frames with an unassigned kind exist in every variant. -/
def Obligations.EncodeInjectiveDecodeTotal : Prop :=
  (∀ (v : Variant) (k k' : Byte) (q q' : Nat) (p p' : Frame),
    seqInDomain v q = true → seqInDomain v q' = true → Codec.encode v k q p = Codec.encode v k' q' p' →
    k = k' ∧ p = p' ∧ (v ≠ .a → q = q')) ∧
  (∀ (v : Variant) (f : Frame),
    (headerSize v ≤ f.length → ∃ d, Codec.decode v f = .ok d) ∧
    (f.length < headerSize v → Codec.decode v f = .error f.length)) ∧
  (∀ v : Variant, ∃ f d, Codec.decode v f = .ok d ∧ d.checksumOk = true ∧ 3 ≤ d.kind.toNat)

/-- R97: the checksum field of ENCODE's frame holds the checksum of kind, sequence and payload, and laying the frame out
with any placeholder and overwriting the field gives the same frame. -/
def Obligations.PlaceholderUnobservable : Prop :=
  ∀ (placeholder : Word16) (v : Variant) (kind : Byte) (q : Nat) (p : Frame),
    seqInDomain v q = true →
    Codec.encodeInPlace placeholder v kind q p = Codec.encode v kind q p ∧
    memRead (Codec.encode v kind q p) (headerSize v - 2) 2 =
      be 2 (csum16 (kind :: (Codec.seqEnc v q ++ p))).toNat

/-! ### Words, slots, steps -/

/-- Derived from 30_encoding.md R90 to R92, R114, R116: decoding the slot of a well-formed instruction gives it back, with
every operand (TMR.RESTART's word is TMR.ARM's, R122). The operands' layout is the model's (log entry 10). -/
def Obligations.InstructionRoundTrip : Prop :=
  ∀ i : Instr, i.wellFormed = true → decode i.layout (encode i) = .ok i.canonical

/-- The other direction: a slot has one meaning. What the decoder reads is well-formed and encodes to the same slot. The
operands' layout and SEQ_DEC's exact length are the model's (log entries 10, 33 and 39). -/
def Obligations.DecodedSlotEncodesBack : Prop :=
  ∀ (v : Variant) (slot : Slot) (i : Instr),
    decode v slot = .ok i → i.wellFormed = true ∧ i.canonical = i ∧ encode i = slot

/-- Derived from R90 to R92, R116 and 95_test_vectors.md: five frames and four keys written out from the spec's encodings
decode to what they stand for. That the 32-bit table word 0x0201FFFC is read as B.NAK is the model's choice (log entry 12): a
format BC frame is B's or C's by the instance's VARIANT (R98, R100; T-ENC6 has it for both). -/
def Obligations.WrittenWordsDecode : Prop :=
  decodeTableWord 24 0x01FFFE = some (.aAck 0xFFFE []) ∧
  decode .a (.wire [0x00, 0xFF, 0xBE, 0x41]) = .ok (.aData 0xFFBE [0x41]) ∧
  decodeTableWord 32 0x0201FFFC = some (.bNak 0x01 0xFFFC []) ∧
  decode .c (.wire [0x01, 0xFF, 0xFE, 0xFF]) = .ok (.cAck 0xFF 0xFEFF []) ∧
  decodeTableWord 56 0x0101020304FFF4 = some (.dAck 0x01020304 0xFFF4 []) ∧
  decodeTableWord 8 0b1010110 = some (.rbRx []) ∧
  decodeTableWord 8 0b0110111 = some .sdTimeout ∧
  decodeTableWord 8 0b0101000 = some (.tmrArm .c) ∧
  decodeTableWord 8 0b1111100 = some (.shutdown .receiver .d)

/-- Derived from R61, R72, R100: one step runs the instruction the port's slot decodes to, in the state with the event taken:
the slot gone, the schedule and the free values' index moved on (the port, the schedule and the index are the model's, log
entries 5, 7 and 8). At a RESET instance the slot is read under its variant, and a frame of no packet row is its RX operation
(R101, R104; log entry 34). An operation slot runs at every instance, one that no RESET has reached too; a frame there is
refused (R282 (f), log entry 17). A slot the decoder rejects is refused: R282 says so of an unassigned operation code (e) and of
a key without a row (c); of an empty slot, a key byte with bit 7 set, operands of another length and a sequence operand of
variant A it is the model's own operand layout (DESIGN CHOICE, log entries 10, 33 and 39). -/
def Obligations.StepRunsDecodedInstruction : Prop :=
  ∀ (s : State) (slot : Slot) (rest : List Slot),
    s.source = some .port → s.inbox = slot :: rest →
    (∀ role v, s.regs.identity = some (role, v) →
      (∀ i, decode v slot = .ok i →
        step s = exec i { s with inbox := rest, schedule := s.schedule.tail, draws := s.draws + 1 }) ∧
      (∀ f e, slot = .wire f → decodeFrame v f = .error e →
        step s = exec (rxInstr role v f) { s with inbox := rest, schedule := s.schedule.tail, draws := s.draws + 1 })) ∧
    (∀ bs i, slot = .op bs → decodeOp bs = .ok i →
      step s = exec i { s with inbox := rest, schedule := s.schedule.tail, draws := s.draws + 1 }) ∧
    (∀ bs e, slot = .op bs → decodeOp bs = .error e → step s = .refused (.undecodable e)) ∧
    (∀ f, slot = .wire f → s.regs.identity = none → step s = .refused .beforeReset)

/-- Derived from R260, R276 (b) and (c), R296: the two internal sources. A pending TIMEOUT or a held SEND that is served
runs its operation, and an instance that nothing offers an event to waits with every register unchanged (log entry 25). The
schedule, the queue of held SENDs and the free values' index are the model's (log entries 5, 8 and 9). -/
def Obligations.StepServesInternalSourcesOrWaits : Prop :=
  ∀ s : State,
    (s.source = some .timeout → ∀ i, s.regs.timeoutInstr = some i →
      step s = exec i { s with schedule := s.schedule.tail, draws := s.draws + 1 }) ∧
    (s.source = some .held → ∀ data rest i, s.held = data :: rest → s.regs.sendInstr data = some i →
      step s = exec i { s with held := rest, schedule := s.schedule.tail, draws := s.draws + 1 }) ∧
    ((∀ src, s.available src = false) → step s = .next s)

/-- Derived from R278 ("any of them may be handled first, and a model must admit every order"): whichever source offers an
event, a schedule (the model's, log entry 8) has it served next; and whatever is served offers one. -/
def Obligations.EveryOrderOfEventsAdmitted : Prop :=
  (∀ (s : State) (src : Source), s.available src = true → State.source { s with schedule := [src] } = some src) ∧
  (∀ (s : State) (src : Source), s.source = some src → s.available src = true)

/-! ### Variant A (41_variant_A_stop_and_wait.md) -/

/-- R160: SA.SEND accepted, held until the phase is IDLE again, refused. -/
def Obligations.SaSendTransmitsAndWaits : Prop :=
  ∀ (s : State) (r : SenderA) (data : Frame),
    s.regs = .senderA r → s.running = true →
    (r.phase = .idle → data.length ≤ s.params.mss →
      exec (.saSend data) s =
        .next { s with
          regs := .senderA { phase := .awaitingResponse, lastPacket := Codec.encode .a kindData 0 data }
          outputs := s.outputs ++ [.tx (Codec.encode .a kindData 0 data)] }) ∧
    (r.phase = .awaitingResponse → ∃ h : List Frame, h.Perm (data :: s.held) ∧ exec (.saSend data) s = .next { s with held := h }) ∧
    (r.phase = .idle → s.params.mss < data.length → exec (.saSend data) s = .refused .payloadTooLong) ∧
    (s.held ≠ [] → (s.available .held = true ↔ r.phase = .idle))

/-- R162: SA.RX, branches (a) to (f). The clause for DISCARD in (f) is the parameter of 93_implementation_defined.md U4
(log entry 22), not R162's. -/
def Obligations.SaRxBranches : Prop :=
  ∀ (s : State) (r : SenderA) (f : Frame),
    s.regs = .senderA r → s.running = true → f.length ≤ 3 + s.params.mss →
    (r.phase = .idle → exec (.saRx f) s = .next s) ∧
    (r.phase = .awaitingResponse → f.length < 3 →
      exec (.saRx f) s = .next { s with outputs := s.outputs ++ [.framingError f.length] }) ∧
    (∀ d, r.phase = .awaitingResponse → Codec.decode .a f = .ok d →
      (d.checksumOk = false ∨ d.kind = 2 →
        exec (.saRx f) s = .next { s with outputs := s.outputs ++ [.tx r.lastPacket] }) ∧
      (d.checksumOk = true → d.kind = 1 →
        exec (.saRx f) s =
          .next { s with
            regs := .senderA { phase := .idle, lastPacket := r.lastPacket }
            outputs := s.outputs ++ [.done none] }) ∧
      (d.checksumOk = true → d.kind ≠ 1 → d.kind ≠ 2 → s.saUnrecognized = .retransmit →
        exec (.saRx f) s = .next { s with outputs := s.outputs ++ [.tx r.lastPacket] }) ∧
      (d.checksumOk = true → d.kind ≠ 1 → d.kind ≠ 2 → s.saUnrecognized = .discard →
        exec (.saRx f) s = .next s))

/-- R164: RA.RX, branches (a) to (d), with the two replies byte for byte. -/
def Obligations.RaRxBranches : Prop :=
  ∀ (s : State) (f : Frame),
    s.regs = .receiverA → s.running = true → f.length ≤ 3 + s.params.mss →
    (f.length < 3 → exec (.raRx f) s = .next { s with outputs := s.outputs ++ [.framingError f.length] }) ∧
    (∀ d, Codec.decode .a f = .ok d →
      (d.checksumOk = false →
        exec (.raRx f) s = .next { s with outputs := s.outputs ++ [.tx [0x02, 0xFF, 0xFD]] }) ∧
      (d.checksumOk = true → d.kind = 0 →
        exec (.raRx f) s =
          .next { s with outputs := s.outputs ++ [.deliver d.payload, .tx [0x01, 0xFF, 0xFE]] }) ∧
      (d.checksumOk = true → d.kind ≠ 0 → exec (.raRx f) s = .next s))

/-! ### Variant B (42_variant_B_alternating_bit.md) -/

/-- R180: SB.SEND accepted, held until READY, refused. -/
def Obligations.SbSendTransmitsAndWaits : Prop :=
  ∀ (s : State) (r : SenderB) (data : Frame),
    s.regs = .senderB r → s.running = true →
    (r.phase = .ready → data.length ≤ s.params.mss →
      exec (.sbSend data) s =
        .next { s with
          regs := .senderB { r with
            phase := .waitAck, lastPacket := Codec.encode .b kindData r.currentSequence.toNat data }
          outputs := s.outputs ++ [.tx (Codec.encode .b kindData r.currentSequence.toNat data)] }) ∧
    (r.phase = .waitAck → ∃ h : List Frame, h.Perm (data :: s.held) ∧ exec (.sbSend data) s = .next { s with held := h }) ∧
    (r.phase = .ready → s.params.mss < data.length → exec (.sbSend data) s = .refused .payloadTooLong) ∧
    (s.held ≠ [] → (s.available .held = true ↔ r.phase = .ready))

/-- R182: SB.RX, branches (a) to (g); `1 - c` is the other sequence value. -/
def Obligations.SbRxBranches : Prop :=
  ∀ (s : State) (r : SenderB) (f : Frame),
    s.regs = .senderB r → s.running = true → f.length ≤ 4 + s.params.mss →
    (r.phase = .ready → exec (.sbRx f) s = .next s) ∧
    (r.phase = .waitAck → f.length < 4 →
      exec (.sbRx f) s = .next { s with outputs := s.outputs ++ [.framingError f.length] }) ∧
    (∀ d, r.phase = .waitAck → Codec.decode .b f = .ok d →
      (d.checksumOk = false → exec (.sbRx f) s = .next s) ∧
      (d.checksumOk = true → d.kind = 1 ∨ d.kind = 2 → d.seq = some (1 - r.currentSequence.toNat) →
        exec (.sbRx f) s = .next s) ∧
      (d.checksumOk = true → d.kind = 1 → d.seq = some r.currentSequence.toNat →
        exec (.sbRx f) s =
          .next { s with
            regs := .senderB { r with phase := .ready, currentSequence := 1 - r.currentSequence }
            outputs := s.outputs ++ [.done none] }) ∧
      (d.checksumOk = true → d.kind = 2 → d.seq = some r.currentSequence.toNat →
        exec (.sbRx f) s = .next { s with outputs := s.outputs ++ [.tx r.lastPacket] }) ∧
      (d.checksumOk = true →
        (d.kind ≠ 1 ∧ d.kind ≠ 2) ∨ (d.seq ≠ some r.currentSequence.toNat ∧ d.seq ≠ some (1 - r.currentSequence.toNat)) →
        exec (.sbRx f) s = .next { s with outputs := s.outputs ++ [.tx r.lastPacket] }))

/-- R184: RB.RX, branches (a) to (e); the replies are `ENCODE(B, ACK or NAK, .., "")`. -/
def Obligations.RbRxBranches : Prop :=
  ∀ (s : State) (e : BitVec 1) (f : Frame),
    s.regs = .receiverB e → s.running = true → f.length ≤ 4 + s.params.mss →
    (f.length < 4 → exec (.rbRx f) s = .next { s with outputs := s.outputs ++ [.framingError f.length] }) ∧
    (∀ d, Codec.decode .b f = .ok d →
      (d.checksumOk = false →
        exec (.rbRx f) s = .next { s with outputs := s.outputs ++ [.tx (Codec.encode .b 2 e.toNat [])] }) ∧
      (d.checksumOk = true → d.kind ≠ 0 → exec (.rbRx f) s = .next s) ∧
      (d.checksumOk = true → d.kind = 0 → d.seq = some e.toNat →
        exec (.rbRx f) s =
          .next { s with
            regs := .receiverB (1 - e)
            outputs := s.outputs ++ [.deliver d.payload, .tx (Codec.encode .b 1 e.toNat [])] }) ∧
      (d.checksumOk = true → d.kind = 0 → d.seq ≠ some e.toNat →
        exec (.rbRx f) s =
          .next { s with outputs := s.outputs ++ [.tx (Codec.encode .b 1 (1 - e.toNat) [])] }))

/-! ### Variant C (43_variant_C_timer_driven.md) -/

/-- R200: SC.SEND accepted (timer armed), held until READY, refused. -/
def Obligations.ScSendArmsTimer : Prop :=
  ∀ (s : State) (r : SenderC) (data : Frame),
    s.regs = .senderC r → s.running = true →
    (r.phase = .ready → data.length ≤ s.params.mss →
      exec (.scSend data) s =
        .next { s with
          regs := .senderC { r with
            phase := .waitAck, lastPacket := Codec.encode .c kindData r.currentSequence.toNat data
            timer := { armed := true, expired := false, remaining := s.params.timeoutTicks } }
          outputs := s.outputs ++ [.tx (Codec.encode .c kindData r.currentSequence.toNat data)] }) ∧
    (r.phase = .waitAck → ∃ h : List Frame, h.Perm (data :: s.held) ∧ exec (.scSend data) s = .next { s with held := h }) ∧
    (r.phase = .ready → s.params.mss < data.length → exec (.scSend data) s = .refused .payloadTooLong) ∧
    (s.held ≠ [] → (s.available .held = true ↔ r.phase = .ready))

/-- R202: SC.RX, branches (a) to (d). After the matching ACK the counter is `(c + 1) mod 256`, the timer idle and its
`remaining` any value of 0..TIMEOUT_TICKS (a free value, log entry 6). -/
def Obligations.ScRxBranches : Prop :=
  ∀ (s : State) (r : SenderC) (f : Frame),
    s.regs = .senderC r → s.running = true → f.length ≤ 4 + s.params.mss → r.timer.remaining ≤ s.params.timeoutTicks →
    (r.phase = .ready → exec (.scRx f) s = .next s) ∧
    (r.phase = .waitAck → f.length < 4 →
      exec (.scRx f) s = .next { s with outputs := s.outputs ++ [.framingError f.length] }) ∧
    (∀ d, r.phase = .waitAck → Codec.decode .c f = .ok d →
      (d.checksumOk = true → d.kind = 1 → d.seq = some r.currentSequence.toNat →
        ∃ (c : BitVec 8) (left : Nat),
          c.toNat = (r.currentSequence.toNat + 1) % 256 ∧ left ≤ s.params.timeoutTicks ∧
          exec (.scRx f) s =
            .next { s with
              regs := .senderC { r with
                phase := .ready, currentSequence := c
                timer := { armed := false, expired := false, remaining := left } }
              outputs := s.outputs ++ [.done none] }) ∧
      (¬ (d.checksumOk = true ∧ d.kind = 1 ∧ d.seq = some r.currentSequence.toNat) →
        exec (.scRx f) s = .next s))

/-- R204: SC.TIMEOUT retransmits the stored bytes and re-arms; in READY it only clears the flag; without `expired` it is
not enabled. -/
def Obligations.ScTimeoutRetransmits : Prop :=
  ∀ (s : State) (r : SenderC),
    s.regs = .senderC r → s.running = true →
    (r.timer.expired = true → r.phase = .waitAck →
      exec .scTimeout s =
        .next { s with
          regs := .senderC { r with timer := { armed := true, expired := false, remaining := s.params.timeoutTicks } }
          outputs := s.outputs ++ [.tx r.lastPacket] }) ∧
    (r.timer.expired = true → r.phase = .ready →
      exec .scTimeout s = .next { s with regs := .senderC { r with timer := { r.timer with expired := false } } }) ∧
    (r.timer.expired = false → exec .scTimeout s = .refused .timeoutNotEnabled)

/-- R206: RC.RX, branches (a) to (e), `prev = (e - 1) mod 256`. -/
def Obligations.RcRxBranches : Prop :=
  ∀ (s : State) (e : BitVec 8) (f : Frame) (prev : Nat),
    s.regs = .receiverC e → s.running = true → f.length ≤ 4 + s.params.mss → prev = (e.toNat + 255) % 256 →
    (f.length < 4 → exec (.rcRx f) s = .next { s with outputs := s.outputs ++ [.framingError f.length] }) ∧
    (∀ d, Codec.decode .c f = .ok d →
      (d.checksumOk = false →
        exec (.rcRx f) s = .next { s with outputs := s.outputs ++ [.tx (Codec.encode .c 1 prev [])] }) ∧
      (d.checksumOk = true → d.kind ≠ 0 → exec (.rcRx f) s = .next s) ∧
      (d.checksumOk = true → d.kind = 0 → d.seq = some e.toNat →
        ∃ e' : BitVec 8, e'.toNat = (e.toNat + 1) % 256 ∧
          exec (.rcRx f) s =
            .next { s with
              regs := .receiverC e'
              outputs := s.outputs ++ [.deliver d.payload, .tx (Codec.encode .c 1 e.toNat [])] }) ∧
      (d.checksumOk = true → d.kind = 0 → d.seq ≠ some e.toNat →
        exec (.rcRx f) s = .next { s with outputs := s.outputs ++ [.tx (Codec.encode .c 1 prev [])] }))

/-! ### Variant D (44_variant_D_go_back_n.md) -/

/-- R220: SD.SEND accepted (assigned, buffered, transmitted, the timer armed for the first outstanding packet only), held
while the window is full, refused over MSS. -/
def Obligations.SdSendBuffersAndTransmits : Prop :=
  ∀ (s : State) (r : SenderD) (data : Frame),
    s.regs = .senderD r → s.running = true → r.buffer.wf →
    ((r.nextToSend - r.base).toNat < s.params.n → data.length ≤ s.params.mss →
      ∃ b : Memory,
        b.wf ∧
        (∀ q, b.read q =
          if q = r.nextToSend then some (Codec.encode .d kindData r.nextToSend.toNat data) else r.buffer.read q) ∧
        exec (.sdSend data) s =
          .next { s with
            regs := .senderD {
              base := r.base
              nextToSend := r.nextToSend + 1
              buffer := b
              timer := (if r.base = r.nextToSend then
                { armed := true, expired := false, remaining := s.params.timeoutTicks } else r.timer) }
            outputs := s.outputs ++ [.tx (Codec.encode .d kindData r.nextToSend.toNat data)] }) ∧
    (s.params.n ≤ (r.nextToSend - r.base).toNat →
      ∃ h : List Frame, h.Perm (data :: s.held) ∧ exec (.sdSend data) s = .next { s with held := h }) ∧
    ((r.nextToSend - r.base).toNat < s.params.n → s.params.mss < data.length →
      exec (.sdSend data) s = .refused .payloadTooLong) ∧
    (s.held ≠ [] → (s.available .held = true ↔ (r.nextToSend - r.base).toNat < s.params.n))

/-- R222: SD.RX, branches (a) to (e). An ACK inside the window acknowledges `base .. q`: those entries leave the buffer,
their completions are emitted in ascending order, `base` becomes `q + 1`, and the timer is cancelled when nothing is
outstanding (its `remaining` then a free value, log entry 6) and restarted otherwise. -/
def Obligations.SdRxBranches : Prop :=
  ∀ (s : State) (r : SenderD) (f : Frame),
    s.regs = .senderD r → s.running = true → f.length ≤ 7 + s.params.mss → r.buffer.wf →
    r.timer.remaining ≤ s.params.timeoutTicks →
    (f.length < 7 → exec (.sdRx f) s = .next { s with outputs := s.outputs ++ [.framingError f.length] }) ∧
    (∀ d, Codec.decode .d f = .ok d →
      (d.checksumOk = false ∨ d.kind ≠ 1 → exec (.sdRx f) s = .next s) ∧
      (∀ q : Seq32, d.checksumOk = true → d.kind = 1 → d.seq = some q.toNat →
        ((r.nextToSend - r.base).toNat ≤ (q - r.base).toNat → exec (.sdRx f) s = .next s) ∧
        ((q - r.base).toNat < (r.nextToSend - r.base).toNat →
          ∃ (b : Memory) (left : Nat),
            b.wf ∧ left ≤ s.params.timeoutTicks ∧
            (∀ x, b.read x = if (x - r.base).toNat ≤ (q - r.base).toNat then none else r.buffer.read x) ∧
            exec (.sdRx f) s =
              .next { s with
                regs := .senderD {
                  base := q + 1
                  nextToSend := r.nextToSend
                  buffer := b
                  timer := (if q + 1 = r.nextToSend then { armed := false, expired := false, remaining := left }
                    else { armed := true, expired := false, remaining := s.params.timeoutTicks }) }
                outputs := s.outputs ++
                  (List.range ((q - r.base).toNat + 1)).map
                    (fun i => .done (some (r.base + BitVec.ofNat 32 i))) })))

/-- R224: SD.TIMEOUT transmits every buffered frame of the window in ascending order from `base`, unchanged, and re-arms;
with nothing outstanding it only clears the flag; without `expired` it is not enabled. (A window key without a frame:
SoundStateNeverFaults.) -/
def Obligations.SdTimeoutGoesBackN : Prop :=
  ∀ (s : State) (r : SenderD),
    s.regs = .senderD r → s.running = true →
    (r.timer.expired = true → r.base ≠ r.nextToSend → ∀ frames : List Frame,
      frames.length = (r.nextToSend - r.base).toNat →
      (∀ i, i < frames.length → r.buffer.read (r.base + BitVec.ofNat 32 i) = frames[i]?) →
      exec .sdTimeout s =
        .next { s with
          regs := .senderD { r with timer := { armed := true, expired := false, remaining := s.params.timeoutTicks } }
          outputs := s.outputs ++ frames.map .tx }) ∧
    (r.timer.expired = true → r.base = r.nextToSend →
      exec .sdTimeout s = .next { s with regs := .senderD { r with timer := { r.timer with expired := false } } }) ∧
    (r.timer.expired = false → exec .sdTimeout s = .refused .timeoutNotEnabled)

/-- R228: RD.RX, branches (a) to (e), `prev = (e - 1) mod 2^32`. -/
def Obligations.RdRxBranches : Prop :=
  ∀ (s : State) (e : Seq32) (f : Frame) (prev : Nat),
    s.regs = .receiverD e → s.running = true → f.length ≤ 7 + s.params.mss →
    prev = (e.toNat + (2 ^ 32 - 1)) % 2 ^ 32 →
    (f.length < 7 → exec (.rdRx f) s = .next { s with outputs := s.outputs ++ [.framingError f.length] }) ∧
    (∀ d, Codec.decode .d f = .ok d →
      (d.checksumOk = false →
        exec (.rdRx f) s = .next { s with outputs := s.outputs ++ [.tx (Codec.encode .d 1 prev [])] }) ∧
      (d.checksumOk = true → d.kind ≠ 0 → exec (.rdRx f) s = .next s) ∧
      (d.checksumOk = true → d.kind = 0 → d.seq = some e.toNat →
        ∃ e' : Seq32, e'.toNat = (e.toNat + 1) % 2 ^ 32 ∧
          exec (.rdRx f) s =
            .next { s with
              regs := .receiverD e'
              outputs := s.outputs ++ [.deliver d.payload, .tx (Codec.encode .d 1 e.toNat [])] }) ∧
      (d.checksumOk = true → d.kind = 0 → d.seq ≠ some e.toNat →
        exec (.rdRx f) s = .next { s with outputs := s.outputs ++ [.tx (Codec.encode .d 1 prev [])] }))

/-! ### The packet rows (30_encoding.md R98) -/

/-- Derived from R98, R100: a packet is handled under the layout of the instance's own VARIANT, whatever row it was built as: each of the
twelve packet instructions is the instance's RX operation on the frame. -/
def Obligations.PacketHandledUnderOwnLayout : Prop :=
  ∀ (s : State) (role : Role) (v : Variant) (q : Byte) (q32 : Seq32) (ck : Word16) (p : Frame),
    s.regs.identity = some (role, v) →
    exec (.aData ck p) s = exec (rxInstr role v (wireA 0 ck p)) s ∧
    exec (.aAck ck p) s = exec (rxInstr role v (wireA 1 ck p)) s ∧
    exec (.aNak ck p) s = exec (rxInstr role v (wireA 2 ck p)) s ∧
    exec (.bData q ck p) s = exec (rxInstr role v (wireBC 0 q ck p)) s ∧
    exec (.bAck q ck p) s = exec (rxInstr role v (wireBC 1 q ck p)) s ∧
    exec (.bNak q ck p) s = exec (rxInstr role v (wireBC 2 q ck p)) s ∧
    exec (.cData q ck p) s = exec (rxInstr role v (wireBC 0 q ck p)) s ∧
    exec (.cAck q ck p) s = exec (rxInstr role v (wireBC 1 q ck p)) s ∧
    exec (.cNak q ck p) s = exec (rxInstr role v (wireBC 2 q ck p)) s ∧
    exec (.dData q32 ck p) s = exec (rxInstr role v (wireD 0 q32 ck p)) s ∧
    exec (.dAck q32 ck p) s = exec (rxInstr role v (wireD 1 q32 ck p)) s ∧
    exec (.dNak q32 ck p) s = exec (rxInstr role v (wireD 2 q32 ck p)) s

/-- Derived from R98, R162, R164: with the right checksum, A.DATA at the receiver is delivered and acknowledged, A.ACK at
a waiting sender completes, A.NAK retransmits. -/
def Obligations.VariantAPacketsTakeEffect : Prop :=
  ∀ (s : State) (ck : Word16) (p : Frame),
    s.running = true → p.length ≤ s.params.mss →
    (s.regs = .receiverA → ck.toNat = 0xFFFF - (0 + (p.map BitVec.toNat).sum) % 2 ^ 16 →
      exec (.aData ck p) s = .next { s with outputs := s.outputs ++ [.deliver p, .tx [0x01, 0xFF, 0xFE]] }) ∧
    (∀ r, s.regs = .senderA r → r.phase = .awaitingResponse →
      (ck.toNat = 0xFFFF - (1 + (p.map BitVec.toNat).sum) % 2 ^ 16 →
        exec (.aAck ck p) s =
          .next { s with regs := .senderA { r with phase := .idle }, outputs := s.outputs ++ [.done none] }) ∧
      (ck.toNat = 0xFFFF - (2 + (p.map BitVec.toNat).sum) % 2 ^ 16 →
        exec (.aNak ck p) s = .next { s with outputs := s.outputs ++ [.tx r.lastPacket] }))

/-- Derived from R98, R182, R184: with the right checksum and the current sequence, B.DATA is delivered and acknowledged,
B.ACK completes and flips, B.NAK retransmits. -/
def Obligations.VariantBPacketsTakeEffect : Prop :=
  ∀ (s : State) (q : Byte) (ck : Word16) (p : Frame),
    s.running = true → p.length ≤ s.params.mss →
    (∀ e, s.regs = .receiverB e → q.toNat = e.toNat →
      ck.toNat = 0xFFFF - (0 + q.toNat + (p.map BitVec.toNat).sum) % 2 ^ 16 →
      exec (.bData q ck p) s =
        .next { s with
          regs := .receiverB (1 - e)
          outputs := s.outputs ++ [.deliver p, .tx (Codec.encode .b 1 e.toNat [])] }) ∧
    (∀ r, s.regs = .senderB r → r.phase = .waitAck → q.toNat = r.currentSequence.toNat →
      (ck.toNat = 0xFFFF - (1 + q.toNat + (p.map BitVec.toNat).sum) % 2 ^ 16 →
        exec (.bAck q ck p) s =
          .next { s with
            regs := .senderB { r with phase := .ready, currentSequence := 1 - r.currentSequence }
            outputs := s.outputs ++ [.done none] }) ∧
      (ck.toNat = 0xFFFF - (2 + q.toNat + (p.map BitVec.toNat).sum) % 2 ^ 16 →
        exec (.bNak q ck p) s = .next { s with outputs := s.outputs ++ [.tx r.lastPacket] }))

/-- Derived from R98, R103, R202, R206: with the right checksum and the current sequence, C.DATA is delivered and
acknowledged, C.ACK completes and counts, and C.NAK changes nothing at either side. -/
def Obligations.VariantCPacketsTakeEffect : Prop :=
  ∀ (s : State) (q : Byte) (ck : Word16) (p : Frame),
    s.running = true → p.length ≤ s.params.mss →
    (∀ e, s.regs = .receiverC e → q = e →
      ck.toNat = 0xFFFF - (0 + q.toNat + (p.map BitVec.toNat).sum) % 2 ^ 16 →
      exec (.cData q ck p) s =
        .next { s with
          regs := .receiverC (e + 1)
          outputs := s.outputs ++ [.deliver p, .tx (Codec.encode .c 1 e.toNat [])] }) ∧
    (∀ r, s.regs = .senderC r → r.phase = .waitAck → q = r.currentSequence →
      ck.toNat = 0xFFFF - (1 + q.toNat + (p.map BitVec.toNat).sum) % 2 ^ 16 →
      ∃ tm : Timer, tm.armed = false ∧ tm.expired = false ∧
        exec (.cAck q ck p) s =
          .next { s with
            regs := .senderC { r with phase := .ready, currentSequence := r.currentSequence + 1, timer := tm }
            outputs := s.outputs ++ [.done none] }) ∧
    (s.regs.identity = some (.sender, .c) ∨ s.regs.identity = some (.receiver, .c) →
      ck.toNat = 0xFFFF - (2 + q.toNat + (p.map BitVec.toNat).sum) % 2 ^ 16 →
      exec (.cNak q ck p) s = .next s)

/-- Derived from R98, R103, R222, R228: with the right checksum, D.DATA of the expected sequence is delivered and
acknowledged, D.ACK inside the window moves `base` past it, and D.NAK changes nothing at either side. -/
def Obligations.VariantDPacketsTakeEffect : Prop :=
  ∀ (s : State) (q : Seq32) (ck : Word16) (p : Frame),
    s.running = true → p.length ≤ s.params.mss →
    (∀ e, s.regs = .receiverD e → q = e →
      ck.toNat = 0xFFFF - (0 + ((be 4 q.toNat ++ p).map BitVec.toNat).sum) % 2 ^ 16 →
      exec (.dData q ck p) s =
        .next { s with
          regs := .receiverD (e + 1)
          outputs := s.outputs ++ [.deliver p, .tx (Codec.encode .d 1 e.toNat [])] }) ∧
    (∀ r, s.regs = .senderD r → (q - r.base).toNat < (r.nextToSend - r.base).toNat →
      ck.toNat = 0xFFFF - (1 + ((be 4 q.toNat ++ p).map BitVec.toNat).sum) % 2 ^ 16 →
      ∃ r' : SenderD, r'.base = q + 1 ∧ r'.nextToSend = r.nextToSend ∧
        exec (.dAck q ck p) s =
          .next { s with
            regs := .senderD r'
            outputs := s.outputs ++
              (List.range ((q - r.base).toNat + 1)).map (fun i => .done (some (r.base + BitVec.ofNat 32 i))) }) ∧
    (s.regs.identity = some (.sender, .d) ∨ s.regs.identity = some (.receiver, .d) →
      ck.toNat = 0xFFFF - (2 + ((be 4 q.toNat ++ p).map BitVec.toNat).sum) % 2 ^ 16 →
      exec (.dNak q ck p) s = .next s)

/-! ### The timer (45_retransmission_timer.md) -/

/-- R252, R256: TMR.ARM loads the countdown and clears both older states of it; TMR.RESTART is the same in effect. -/
def Obligations.TimerArmAndRestartLoad : Prop :=
  ∀ s : State,
    (∀ r, s.regs = .senderC r → ∀ t : State,
      t = { s with
        regs := .senderC { r with timer := { armed := true, expired := false, remaining := s.params.timeoutTicks } } } →
      exec (.tmrArm .c) s = .next t ∧ exec (.tmrRestart .c) s = .next t) ∧
    (∀ r, s.regs = .senderD r → ∀ t : State,
      t = { s with
        regs := .senderD { r with timer := { armed := true, expired := false, remaining := s.params.timeoutTicks } } } →
      exec (.tmrArm .d) s = .next t ∧ exec (.tmrRestart .d) s = .next t)

/-- R254: TMR.CANCEL clears `armed` and `expired`, `remaining` keeps an unspecified value of its range, and cancelling an
idle timer does nothing (log entry 6). -/
def Obligations.TimerCancelIdles : Prop :=
  ∀ s : State,
    (∀ r, s.regs = .senderC r → r.timer.remaining ≤ s.params.timeoutTicks →
      (r.timer.armed = false → r.timer.expired = false → exec (.tmrCancel .c) s = .next s) ∧
      ∃ left, left ≤ s.params.timeoutTicks ∧
        exec (.tmrCancel .c) s =
          .next { s with regs := .senderC { r with timer := { armed := false, expired := false, remaining := left } } }) ∧
    (∀ r, s.regs = .senderD r → r.timer.remaining ≤ s.params.timeoutTicks →
      (r.timer.armed = false → r.timer.expired = false → exec (.tmrCancel .d) s = .next s) ∧
      ∃ left, left ≤ s.params.timeoutTicks ∧
        exec (.tmrCancel .d) s =
          .next { s with regs := .senderD { r with timer := { armed := false, expired := false, remaining := left } } })

/-- R258: TMR.TICK counts an armed timer down; at 0 it stops and sets `expired`; an idle timer is left alone; no output. -/
def Obligations.TimerTickCountsDown : Prop :=
  ∀ (s : State) (v : TimedVariant) (t : Timer) (put : Timer → Regs),
    (v = .c ∧ (∃ r, s.regs = .senderC r ∧ r.timer = t ∧ put = fun x => .senderC { r with timer := x })) ∨
      (v = .d ∧ (∃ r, s.regs = .senderD r ∧ r.timer = t ∧ put = fun x => .senderD { r with timer := x })) →
    s.running = true →
    (t.armed = true → 1 < t.remaining →
      exec (.tmrTick v) s = .next { s with regs := put { t with remaining := t.remaining - 1 } }) ∧
    (t.armed = true → t.remaining = 1 →
      exec (.tmrTick v) s = .next { s with regs := put { armed := false, expired := true, remaining := 0 } }) ∧
    (t.armed = false → exec (.tmrTick v) s = .next s)

/-- Derived from R250: a one-shot countdown. Armed, it has not expired after fewer than TIMEOUT_TICKS ticks, expires at the
TIMEOUT_TICKS-th, and does not count or expire again by itself. -/
def Obligations.TimerExpiresOnceAfterTimeoutTicks : Prop :=
  ∀ (ticks : Nat) (t : Timer), 1 ≤ ticks →
    (∀ k, k < ticks →
      (Nat.repeat Timer.tick k (t.arm ticks)).armed = true ∧ (Nat.repeat Timer.tick k (t.arm ticks)).expired = false ∧
        (Nat.repeat Timer.tick k (t.arm ticks)).remaining = ticks - k) ∧
    (∀ k, ticks ≤ k → Nat.repeat Timer.tick k (t.arm ticks) = { armed := false, expired := true, remaining := 0 })

/-- R264 (derived): the deadline implementation shows the same `armed` and `expired` as the countdown after any sequence
of timer operations, whatever TMR.CANCEL leaves in `remaining`. -/
def Obligations.DeadlineTimerAgreesWithCountdown : Prop :=
  ∀ (ticks : Nat) (ops : List (TimerOp × Nat)) (left now : Nat), 1 ≤ ticks →
    let countdown : Timer :=
      ops.foldl (fun t o => Timer.run o.2 ticks t o.1) { armed := false, expired := false, remaining := left }
    let deadline : DeadlineTimer :=
      ops.foldl (fun d o => DeadlineTimer.run ticks d o.1) { armed := false, deadline := 0, now := now }
    countdown.armed = deadline.counting ∧ countdown.expired = deadline.expired

/-! ### RESET, SHUTDOWN, refusals, errors -/

/-- Derived from R310, R312, R39: RESET of a legal configuration completes in every state: the configuration is sampled,
`running` is 1, the registers of the role and variant have their reset values, `last_packet` and `remaining` are unspecified
within their ranges, no output. Three clauses are the model's reading: that a held SEND is one of the pending SENDs that are
forgotten (log entry 9), that a later RESET may give an instance another VARIANT or ROLE (log entry 20), and that N = 0 or no
ticks are legal where the instance has no such parameter (`legalCfg`, log entry 21). -/
def Obligations.ResetLeavesResetValues : Prop :=
  ∀ (cfg : Cfg) (s : State), legalCfg cfg = true →
    ∃ (lp : Frame) (left : Nat), lp.length ≤ headerSize cfg.variant + cfg.mss ∧ left ≤ cfg.timeoutTicks ∧
      exec (.reset cfg) s =
        .next { s with
          params := { mss := cfg.mss, n := cfg.n, timeoutTicks := cfg.timeoutTicks }
          running := true
          held := []
          regs :=
            (match cfg.role, cfg.variant with
            | .sender, .a => .senderA { phase := .idle, lastPacket := lp }
            | .sender, .b => .senderB { phase := .ready, currentSequence := 0, lastPacket := lp }
            | .sender, .c =>
              .senderC { phase := .ready, currentSequence := 0, lastPacket := lp,
                         timer := { armed := false, expired := false, remaining := left } }
            | .sender, .d =>
              .senderD { base := 0, nextToSend := 0, buffer := [],
                         timer := { armed := false, expired := false, remaining := left } }
            | .receiver, .a => .receiverA
            | .receiver, .b => .receiverB 0
            | .receiver, .c => .receiverC 0
            | .receiver, .d => .receiverD 0) }

/-- Derived from R310, R314, and the base of the invariants: right after RESET, for every legal configuration, an instance is sound, its timer
tracks what is outstanding, a sender accepts a SEND at once and a receiver expects sequence 0. -/
def Obligations.ResetStateIsSoundAndReady : Prop :=
  ∀ cfg : Cfg, legalCfg cfg = true →
    (State.resetOf cfg).Sound ∧ (State.resetOf cfg).TimerTracksOutstanding ∧
    (cfg.role = .sender → (State.resetOf cfg).canAccept = true) ∧
    (cfg.role = .receiver →
      (State.resetOf cfg).regs ∈ [.receiverA, .receiverB 0, .receiverC 0, .receiverD 0])

/-- Derived from R290: SHUTDOWN clears `running`, cancels the timer of a C or D sender, empties the buffer of a D sender and emits
nothing; while `running = 0` every SEND, RX, TICK and TIMEOUT addressed to the instance is discarded with no effect. -/
def Obligations.ShutdownStopsTheInstance : Prop :=
  (∀ (s : State) (role : Role) (v : Variant), s.regs.identity = some (role, v) →
    (v = .a ∨ v = .b ∨ role = .receiver → exec (.shutdown role v) s = .next { s with running := false }) ∧
    (∀ r, s.regs = .senderC r →
      ∃ tm : Timer, tm.armed = false ∧ tm.expired = false ∧
        exec (.shutdown role v) s = .next { s with running := false, regs := .senderC { r with timer := tm } }) ∧
    (∀ r, s.regs = .senderD r →
      ∃ tm : Timer, tm.armed = false ∧ tm.expired = false ∧
        exec (.shutdown role v) s =
          .next { s with running := false, regs := .senderD { r with timer := tm, buffer := [] } })) ∧
  (∀ (s : State) (role : Role) (v : Variant) (i : Instr) (bs : Frame),
    s.running = false → s.regs.identity = some (role, v) →
    i = rxInstr role v bs ∨ s.regs.sendInstr bs = some i ∨ s.regs.timeoutInstr = some i ∨
      (role = .sender ∧ ((v = .c ∧ i = .tmrTick .c) ∨ (v = .d ∧ i = .tmrTick .d))) →
    exec i s = .next s)

/-- Derived from R282: what is outside the contract is refused. (a) SEND over MSS at a sender that could accept, (b) RX
over H + MSS, (c) SEND, TICK and TIMEOUT addressed to another kind of instance, (d) ENCODE outside its domain (SEQ_ENC:
SequenceEncoderByVariant) and, by R142 (c), over MSS, (e) an unassigned operation code, (f) an operation addressed to an
instance before the first RESET (packet rows, ENCODE and frames at the port are refused there too, log entry 17; not stated
here), (g) an illegal configuration. That (c) holds of EVERY operation addressed to another role or variant (RX, SHUTDOWN and
the timer's micro-operations too) is the model's choice (log entry 16). -/
def Obligations.OutsideContractIsRefused : Prop :=
  (∀ (s : State) (data : Frame) (i : Instr),
    s.running = true → s.canAccept = true → s.params.mss < data.length → s.regs.sendInstr data = some i →
    exec i s = .refused .payloadTooLong) ∧
  (∀ (s : State) (role : Role) (v : Variant) (f : Frame),
    s.running = true → s.regs.identity = some (role, v) → headerSize v + s.params.mss < f.length →
    exec (rxInstr role v f) s = .refused .frameTooLong) ∧
  (∀ (s : State) (i : Instr) (dest here : Role × Variant),
    addressee i = some dest → s.regs.identity = some here → dest ≠ here → exec i s = .refused .wrongInstance) ∧
  (∀ (s : State) (r : Role) (v : Variant) (kind : Byte) (q : Seq32) (p : Frame),
    s.regs ≠ .unconfigured →
    (2 < kind.toNat → exec (.encode r v kind q p) s = .refused .kindOutsideDomain) ∧
    (kind.toNat ≤ 2 → seqInDomain v q.toNat = false → exec (.encode r v kind q p) s = .refused .sequenceOutsideDomain) ∧
    (kind.toNat ≤ 2 → seqInDomain v q.toNat = true → s.params.mss < p.length →
      exec (.encode r v kind q p) s = .refused .payloadTooLong)) ∧
  (∀ (r : Role) (v : Variant) (op : Nat) (rest : Frame), 0xD ≤ op → op ≤ 0xF →
    decodeOp (opKey r v op :: rest) = .error (.unassignedOperation op)) ∧
  (∀ (s : State) (i : Instr) (dest : Role × Variant),
    s.regs = .unconfigured → addressee i = some dest → exec i s = .refused .beforeReset) ∧
  (∀ (s : State) (mss n ticks : Nat),
    exec (.reset { variant := .d, role := .sender, mss := mss, n := 0, timeoutTicks := ticks }) s =
      .refused .badConfiguration ∧
    (2 ^ 32 ≤ n → exec (.reset { variant := .d, role := .sender, mss := mss, n := n, timeoutTicks := ticks }) s =
      .refused .badConfiguration) ∧
    exec (.reset { variant := .d, role := .sender, mss := mss, n := n, timeoutTicks := 0 }) s =
      .refused .badConfiguration ∧
    exec (.reset { variant := .c, role := .sender, mss := mss, n := n, timeoutTicks := 0 }) s =
      .refused .badConfiguration)

/-- Derived from R270 to R272, R280: a frame that meets an error cause (short, bad checksum, wrong sequence) at a running
instance is handled to the end, changes no register, delivers nothing and completes nothing; only a short frame gives a
FramingError, with its length. -/
def Obligations.ErrorCausesChangeNoRegister : Prop :=
  ∀ (s : State) (role : Role) (v : Variant) (f : Frame) (c : Cause),
    s.running = true → s.regs.identity = some (role, v) → f.length ≤ headerSize v + s.params.mss →
    frameCause s.regs f = some c →
    ∃ os : List Output,
      exec (rxInstr role v f) s = .next { s with outputs := s.outputs ++ os } ∧ os.length ≤ 1 ∧
      (∀ o ∈ os, (∃ g, o = .tx g) ∨ (c = .framing ∧ o = .framingError f.length)) ∧
      (c = .framing → ∀ g, .tx g ∉ os)

/-! ### Rules about the whole machine -/

/-- Derived: the invariant every step keeps (R62, R63, R226 (1) to (3), R33, R258). -/
def Obligations.StepKeepsSoundState : Prop :=
  ∀ s t : State, s.Sound → step s = .next t → t.Sound

/-- Derived from R226 (4), and R204's argument for variant C: every handler keeps the timer idle exactly when nothing is outstanding
and one of `armed`, `expired` set otherwise. The micro-operations TMR.ARM, TMR.CANCEL and TMR.RESTART, issued alone, are
no handlers. -/
def Obligations.HandlersKeepTimerTracking : Prop :=
  ∀ (i : Instr) (s t : State),
    isMicroOperation i = false → s.Sound → s.TimerTracksOutstanding → exec i s = .next t → t.TimerTracksOutstanding

/-- Derived from R281 ("never crashes the session") and R226 (2): from a sound state no step ends in a fault. Outside the
sound states the one fault is SD.TIMEOUT's, for a window key without a frame (the model's choice, log entry 24). -/
def Obligations.SoundStateNeverFaults : Prop :=
  (∀ s : State, s.Sound → ∀ e, step s ≠ .fault e) ∧
  (∀ (i : Instr) (s : State) (e : Fault), exec i s = .fault e →
    i = .sdTimeout ∧ ∃ (r : SenderD) (q : Seq32),
      s.regs = .senderD r ∧ r.insideWindow q = true ∧ r.buffer.read q = none ∧ e = .bufferEntryMissing q) ∧
  (∀ (s : State) (r : SenderD) (i : Nat),
    s.regs = .senderD r → s.running = true → r.timer.expired = true → i < (r.nextToSend - r.base).toNat →
    r.buffer.read (r.base + BitVec.ofNat 32 i) = none →
    ∃ q, exec .sdTimeout s = .fault (.bufferEntryMissing q))

/-- Derived from R7, R36, R17, R73: no instruction but RESET changes the configuration, the role or the variant, and every
instruction only appends to the output log. Two clauses are the model's reading: that no instruction, RESET included, changes
SA_UNRECOGNIZED (93_implementation_defined.md U4; log entry 22), and that RESET does not shorten the log (log entry 28). -/
def Obligations.OnlyResetChangesConfiguration : Prop :=
  ∀ (i : Instr) (s t : State), exec i s = .next t →
    (∃ os, t.outputs = s.outputs ++ os) ∧ t.saUnrecognized = s.saUnrecognized ∧
    ((∀ cfg, i ≠ .reset cfg) → t.params = s.params ∧ t.regs.identity = s.regs.identity)

/-- Derived from R62, R76, R301: while a sender of A, B or C waits, nothing but RESET rewrites its stored frame or its
sequence, and the only way out of the wait is a completion. -/
def Obligations.WaitKeepsPacketAndEndsInDone : Prop :=
  ∀ (i : Instr) (s t : State), (∀ cfg, i ≠ .reset cfg) → exec i s = .next t →
    (∀ r, s.regs = .senderA r → r.phase = .awaitingResponse →
      ∃ r', t.regs = .senderA r' ∧ r'.lastPacket = r.lastPacket ∧
        (r'.phase = .idle → t.outputs = s.outputs ++ [.done none])) ∧
    (∀ r, s.regs = .senderB r → r.phase = .waitAck →
      ∃ r', t.regs = .senderB r' ∧ r'.lastPacket = r.lastPacket ∧
        (r'.phase = .waitAck → r'.currentSequence = r.currentSequence) ∧
        (r'.phase = .ready → t.outputs = s.outputs ++ [.done none])) ∧
    (∀ r, s.regs = .senderC r → r.phase = .waitAck →
      ∃ r', t.regs = .senderC r' ∧ r'.lastPacket = r.lastPacket ∧
        (r'.phase = .waitAck → r'.currentSequence = r.currentSequence) ∧
        (r'.phase = .ready → t.outputs = s.outputs ++ [.done none]))

/-- Derived from R210, and R222's corner case for D: no received frame, valid or not, makes a sender of variant C or D transmit. -/
def Obligations.ReceivedFrameNeverRetransmitsInCAndD : Prop :=
  ∀ (s t : State) (f : Frame),
    (exec (.scRx f) s = .next t ∨ exec (.sdRx f) s = .next t) → transmitted s t = []

/-- Derived from R168, R188, R330: in variants A and B a waiting sender gets on only by a received frame: whatever else
runs (but RESET), it transmits nothing and goes on waiting. -/
def Obligations.WithoutTimerOnlyAFrameMovesTheSender : Prop :=
  ∀ (i : Instr) (s t : State),
    s.regs.identity = some (.sender, .a) ∨ s.regs.identity = some (.sender, .b) →
    s.regs.sendPending = true → (∀ cfg, i ≠ .reset cfg) → isReception i = false → exec i s = .next t →
    t.regs = s.regs ∧ transmitted s t = []

/-- Derived from R103, R99: an instance of variant C or D in a sound state never transmits a NAK. -/
def Obligations.NakNeverSentInCAndD : Prop :=
  ∀ (i : Instr) (s t : State) (role : Role) (v : Variant),
    s.Sound → s.running = true → s.regs.identity = some (role, v) → v = .c ∨ v = .d → exec i s = .next t →
    ∀ f ∈ transmitted s t, f.head? ≠ some kindNak

/-! ### Sessions (60_exceptions.md R300 to R302) -/

/-- Derived from R340, R294, R320 and 95_test_vectors.md E1: over a channel that loses and changes nothing, every finite list
of payloads of at most MSS bytes is delivered as sent, in order, once each, and every SEND completes, in all four variants:
from both sides right after RESET, and from two instances that each start by their own RESET, in either order. -/
def Obligations.PerfectChannelDeliversAll : Prop :=
  ∀ (v : Variant) (p : Params) (payloads : List Frame),
    1 ≤ p.timeoutTicks → 1 ≤ p.n → p.n ≤ 2 ^ 32 - 1 → (∀ d ∈ payloads, d.length ≤ p.mss) →
    (∃ w, (Session.fresh v p).run (payloads.flatMap perfectRound) = some w ∧ w.AllDelivered payloads) ∧
    (∀ start : List Action,
      start = [.resetFor .sender v p, .resetFor .receiver v p] ∨ start = [.resetFor .receiver v p, .resetFor .sender v p] →
      ∃ w, Session.powerOn.run (start ++ payloads.flatMap perfectRound) = some w ∧ w.AllDelivered payloads)

/-- Derived from R186, R290, R338, for variant B: with both sides reset together and a channel that changes DATA frames
detectably but loses nothing and changes no control frame, the delivered payloads are always a beginning of the sent ones,
and all of them whenever the sender is ready again. No side is reset again (R302); either may be shut down. -/
def Obligations.VariantBDeliversExactlyOnce : Prop :=
  ∀ (p : Params) (w : Session),
    Session.Reaches (fun w a => a.isReset = false ∧ a.DetectedIn .b w ∧ a.keepsControl = true) (Session.fresh .b p) w →
    w.InOrderExactlyOnce ∧ (w.sender.regs.sendPending = false → w.receiver.delivered = w.sent)

/-- Derived from R208, R290, R335, R338, for variant C, for up to 255 sends (so that the counter cannot come round): whatever
the channel loses, delays, reorders or detectably changes, the delivered payloads are a beginning of the sent ones, and all
of them whenever the sender is ready again. No side is reset again (R302); either may be shut down. -/
def Obligations.VariantCDeliversExactlyOnce : Prop :=
  ∀ (p : Params) (w : Session),
    Session.Reaches (fun w a => a.isReset = false ∧ a.DetectedIn .c w) (Session.fresh .c p) w → w.sent.length < 2 ^ 8 →
    w.InOrderExactlyOnce ∧ (w.sender.regs.sendPending = false → w.receiver.delivered = w.sent)

/-- Derived from R230, R27, R290, R335, R338, for variant D, for fewer than 2^32 sends: whatever the channel loses, delays,
reorders or detectably changes, the delivered payloads are a beginning of the sent ones, every completed SEND has been
delivered, and all of them have whenever a running sender has no SEND pending. No side is reset again (R302); either may be
shut down. -/
def Obligations.VariantDDeliversExactlyOnce : Prop :=
  ∀ (p : Params) (w : Session), 1 ≤ p.n → p.n ≤ 2 ^ 32 - 1 →
    Session.Reaches (fun w a => a.isReset = false ∧ a.DetectedIn .d w) (Session.fresh .d p) w → w.sent.length < 2 ^ 32 →
    w.InOrderExactlyOnce ∧ w.sender.completions ≤ w.receiver.delivered.length ∧
      (w.sender.running = true → w.sender.regs.sendPending = false → w.receiver.delivered = w.sent)

/-- Derived from R166, R332 and 95_test_vectors.md P1: a corrupted ACK makes variant A deliver a payload twice. -/
def Obligations.VariantADeliversTwiceAfterBadAck : Prop :=
  ∀ (p : Params) (data : Frame), data.length ≤ p.mss →
    ∃ w, (Session.fresh .a p).run
        [.send data, .deliverToReceiver 0 [], .deliverToSender 0 [(2, 0xFF)], .deliverToReceiver 0 [],
         .deliverToSender 0 []] = some w ∧
      w.sent = [data] ∧ w.receiver.delivered = [data, data] ∧ w.sender.completions = 1

/-- Derived from R324: variant B, the receiver reset alone while the sender is ready at sequence 1: the next payload is
reported sent and never delivered. -/
def Obligations.OneSidedResetLosesSilentlyInB : Prop :=
  ∀ (p : Params) (data : Frame) (w : Session) (r : SenderB), data.length ≤ p.mss →
    w.sender.params = p → w.sender.running = true → w.sender.regs = .senderB r → r.phase = .ready →
    r.currentSequence = 1 → w.toReceiver = [] → w.toSender = [] →
    ∃ w', w.run (.resetFor .receiver .b p :: perfectRound data) = some w' ∧ w'.sent = w.sent ++ [data] ∧
      w'.sender.completions = w.sender.completions + 1 ∧ w'.receiver.delivered = w.receiver.delivered ∧
      w'.sender.regs.sendPending = false

/-- Derived from R63, D37: a ring of N slots indexed by `seq mod N` keeps the packets of a window apart, as long as the window does not
cross the wrap of the 32-bit space or N divides 2^32. Across the wrap it need not: with N = 3 the sequences 0xFFFFFFFF and
0 share a slot, so the map, which the spec calls normative, is what the machine holds (log entry 31). -/
def Obligations.RingSlotsKeepWindowApart : Prop :=
  (∀ (n : Nat) (base : Seq32) (i j : Nat), i < j → j < n →
    base.toNat + j < 2 ^ 32 ∨ 2 ^ 32 % n = 0 →
    ringSlot n (base + BitVec.ofNat 32 i) ≠ ringSlot n (base + BitVec.ofNat 32 j)) ∧
  ringSlot 3 0xFFFFFFFF = ringSlot 3 0
end

