-- ==== Sys2Proof/Laws/Bytes.lean ====
section
/-! SUPPORT. Laws/Bytes.lean: byte order and slices (00_scope.md R16, R17). -/

namespace Sys2Proof

@[simp] theorem be_length (k v : Nat) : (be k v).length = k := by
  induction k with
  | zero => rfl
  | succ k ih => simp [be, ih]

theorem ube_foldl (bs : Frame) (acc : Nat) :
    bs.foldl (fun acc b => acc * 256 + b.toNat) acc = acc * 256 ^ bs.length + ube bs := by
  induction bs generalizing acc with
  | nil => simp [ube]
  | cons b bs ih =>
    simp only [List.foldl_cons, List.length_cons, ube]
    rw [ih, ih (0 * 256 + b.toNat)]
    simp only [Nat.pow_succ, Nat.add_mul, Nat.zero_mul, Nat.zero_add, Nat.add_assoc]
    congr 1
    rw [Nat.mul_assoc, Nat.mul_comm 256]

@[simp] theorem ube_nil : ube [] = 0 := rfl

theorem ube_cons (b : Byte) (bs : Frame) : ube (b :: bs) = b.toNat * 256 ^ bs.length + ube bs := by
  have h := ube_foldl bs (0 * 256 + b.toNat)
  simpa [ube] using h

theorem ube_append (xs ys : Frame) : ube (xs ++ ys) = ube xs * 256 ^ ys.length + ube ys := by
  simp only [ube, List.foldl_append]
  exact ube_foldl ys _

/-- `UBE` undoes `BE_k`, up to the k bytes' range. -/
theorem ube_be (k v : Nat) : ube (be k v) = v % 256 ^ k := by
  induction k with
  | zero => simp [be, Nat.mod_one]
  | succ k ih =>
    rw [be, ube_cons, ih, be_length, BitVec.toNat_ofNat]
    rw [show (2 : Nat) ^ 8 = 256 from rfl, Nat.pow_succ, Nat.mod_mul, Nat.mul_comm (256 ^ k)]
    exact Nat.add_comm _ _

theorem ube_lt (bs : Frame) : ube bs < 256 ^ bs.length := by
  induction bs with
  | nil => simp
  | cons b bs ih =>
    rw [ube_cons, List.length_cons, Nat.pow_succ]
    have hb : b.toNat < 256 := b.isLt
    have : (b.toNat + 1) * 256 ^ bs.length ≤ 256 * 256 ^ bs.length := Nat.mul_le_mul_right _ hb
    rw [Nat.add_mul] at this
    omega

/-- `BE_k` undoes `UBE` on k bytes. -/
theorem be_ube (bs : Frame) : be bs.length (ube bs) = bs := by
  induction bs with
  | nil => rfl
  | cons b bs ih =>
    have hlt := ube_lt bs
    have hpos : 0 < 256 ^ bs.length := Nat.pow_pos (by decide)
    rw [List.length_cons, be, ube_cons]
    congr 1
    · apply BitVec.eq_of_toNat_eq
      rw [BitVec.toNat_ofNat, Nat.mul_comm, Nat.mul_add_div hpos, Nat.div_eq_of_lt hlt, Nat.add_zero]
      exact Nat.mod_eq_of_lt b.isLt
    · have key : ∀ k n m : Nat, be k (n * 256 ^ k + m) = be k m := by
        intro k
        induction k with
        | zero => intro n m; rfl
        | succ k ihk =>
          intro n m
          have hk : 0 < 256 ^ k := Nat.pow_pos (by decide)
          have e : n * 256 ^ (k + 1) + m = (n * 256) * 256 ^ k + m := by
            rw [Nat.pow_succ, Nat.mul_comm (256 ^ k), Nat.mul_assoc]
          rw [be, be]
          congr 1
          · apply BitVec.eq_of_toNat_eq
            simp only [BitVec.toNat_ofNat]
            rw [e, Nat.mul_comm (n * 256), Nat.mul_add_div hk, Nat.mul_comm n,
              show (2 : Nat) ^ 8 = 256 from rfl, Nat.mul_add_mod]
          · rw [e, ihk]
      rw [key, ih]

@[simp] theorem memRead_length_le (buf : Frame) (off n : Nat) : (memRead buf off n).length ≤ n := by
  simp only [memRead, List.length_take]; exact Nat.min_le_left _ _

theorem memRead_append_left (xs ys : Frame) : memRead (xs ++ ys) 0 xs.length = xs := by simp [memRead]

theorem memRead_append_mid (xs ys zs : Frame) : memRead (xs ++ ys ++ zs) xs.length ys.length = ys := by
  simp [memRead, List.append_assoc]

/-- Reading back what was written, when it fits (R17). -/
theorem memRead_memWrite (buf v : Frame) (off : Nat) (h : off ≤ buf.length) :
    memRead (memWrite buf off v) off v.length = v := by
  have hl : (buf.take off).length = off := by simp [h]
  unfold memWrite
  conv => lhs; rw [← hl]
  simpa [hl] using memRead_append_mid (buf.take off) v (buf.drop (off + v.length))

/-- A write inside the buffer keeps its length. -/
theorem memWrite_length (buf v : Frame) (off : Nat) (h : off + v.length ≤ buf.length) :
    (memWrite buf off v).length = buf.length := by
  simp only [memWrite, List.length_append, List.length_take, List.length_drop]
  omega

@[simp] theorem headerSize_eq (v : Variant) : headerSize v = 3 + seqWidth v := by
  unfold headerSize; omega

namespace Machine

@[simp] theorem Codec.seqEnc_length (v : Variant) (q : Nat) : (Codec.seqEnc v q).length = seqWidth v := by
  cases v <;> simp [Codec.seqEnc, seqWidth]

@[simp] theorem Codec.encode_length (v : Variant) (k : Byte) (q : Nat) (p : Frame) :
    (Codec.encode v k q p).length = headerSize v + p.length := by
  simp only [Codec.encode, List.length_append, List.length_cons, Codec.seqEnc_length, be_length, headerSize_eq]
  omega

end Machine

end Sys2Proof
end

