-- ==== Sys2Proof/Laws/Codec.lean ====
section
/-! SUPPORT. Laws/Codec.lean: what ENCODE's frame and DECODE's record consist of (40_codec.md R140, R144), piece by piece. -/

namespace Sys2Proof.Machine

/-! ### DECODE by the frame's length -/
theorem decode_short (v : Variant) (f : Frame) (h : f.length < headerSize v) : Codec.decode v f = .error f.length := by
  simp only [Codec.decode, if_pos h]

theorem decode_long (v : Variant) (f : Frame) (h : headerSize v ≤ f.length) :
    Codec.decode v f = .ok { kind := f.getD 0 0
                             seq := Codec.seqDec v (memRead f 1 (seqWidth v))
                             checksumOk := (csum16 (covered v f)).toNat == ube (memRead f (headerSize v - 2) 2)
                             payload := f.drop (headerSize v) } := by
  simp only [Codec.decode, if_neg (Nat.not_lt.mpr h)]

/-! ### A frame cut into kind and sequence, checksum field, payload -/
theorem parts_covered (v : Variant) (A C P : Frame) (hA : A.length = 1 + seqWidth v) (hC : C.length = 2) :
    covered v (A ++ (C ++ P)) = A ++ P := by
  unfold covered memRead
  rw [List.drop_zero, List.take_left' hA, ← List.append_assoc, List.drop_left' (by simp [hA, hC]; omega)]

theorem parts_stored (v : Variant) (A C P : Frame) (hA : A.length = 1 + seqWidth v) (hC : C.length = 2) :
    memRead (A ++ (C ++ P)) (headerSize v - 2) 2 = C := by
  unfold memRead
  rw [List.drop_left' (by simp [hA]; omega), List.take_left' hC]

/-- DECODE of a frame given by its four fields. -/
theorem decode_parts (v : Variant) (k : Byte) (S C P : Frame) (hA : S.length = seqWidth v) (hC : C.length = 2) :
    Codec.decode v (k :: (S ++ (C ++ P))) = .ok { kind := k, seq := Codec.seqDec v S, checksumOk := (csum16 (k :: (S ++ P))).toNat == ube C, payload := P } := by
  rw [decode_long v _ (by simp [hA, hC]; omega)]
  have e : k :: (S ++ (C ++ P)) = (k :: S) ++ (C ++ P) := rfl
  have e2 : k :: (S ++ P) = (k :: S) ++ P := rfl
  have hA' : (k :: S).length = 1 + seqWidth v := by simp [hA]; omega
  rw [e, e2, parts_covered v _ C P hA' hC, parts_stored v _ C P hA' hC]
  congr 2
  · simp [memRead, ← hA]
  · rw [← List.append_assoc, List.drop_left' (by simp [hA, hC]; omega)]

/-- A packet built under format A, decoded under it (R90). -/
theorem decode_wireA (k : Byte) (ck : Word16) (p : Frame) : Codec.decode .a (wireA k ck p) =
    .ok { kind := k, seq := none, checksumOk := (csum16 (k :: p)).toNat == ck.toNat, payload := p } := by
  have h := decode_parts .a k [] (be 2 ck.toNat) p rfl (by simp)
  rw [ube_be, Nat.mod_eq_of_lt (by have := ck.isLt; omega)] at h
  exact h

/-- A packet built under format BC, decoded as B or C (R91). -/
theorem decode_wireBC (v : Variant) (hv : v = .b ∨ v = .c) (k q : Byte) (ck : Word16) (p : Frame) : Codec.decode v (wireBC k q ck p) =
    .ok { kind := k, seq := some q.toNat, checksumOk := (csum16 (k :: q :: p)).toNat == ck.toNat, payload := p } := by
  have h := decode_parts v k [q] (be 2 ck.toNat) p (by rcases hv with rfl | rfl <;> rfl) (by simp)
  rw [ube_be, Nat.mod_eq_of_lt (by have := ck.isLt; omega)] at h
  have : Codec.seqDec v [q] = some q.toNat := by rcases hv with rfl | rfl <;> simp [Codec.seqDec, ube]
  rw [this] at h
  exact h

/-- A packet built under format D, decoded under it (R92). -/
theorem decode_wireD (k : Byte) (q : Seq32) (ck : Word16) (p : Frame) : Codec.decode .d (wireD k q ck p) =
    .ok { kind := k, seq := some q.toNat, checksumOk := (csum16 (k :: (be 4 q.toNat ++ p))).toNat == ck.toNat, payload := p } := by
  have h := decode_parts .d k (be 4 q.toNat) (be 2 ck.toNat) p (by simp [seqWidth]) (by simp)
  rw [ube_be, Nat.mod_eq_of_lt (by have := ck.isLt; omega)] at h
  have : Codec.seqDec .d (be 4 q.toNat) = some q.toNat := by
    simp only [Codec.seqDec, ube_be]; rw [Nat.mod_eq_of_lt (Nat.lt_of_lt_of_le q.isLt (by decide))]
  rw [this] at h
  exact h

/-! ### The pieces of an encoded frame -/
theorem encode_covered (v k q p) : covered v (Codec.encode v k q p) = k :: (Codec.seqEnc v q ++ p) := by
  have h := Codec.seqEnc_length v q
  unfold covered Codec.encode memRead
  simp only [List.drop_zero]
  have e1 : ((k :: Codec.seqEnc v q ++ be 2 (csum16 (k :: Codec.seqEnc v q ++ p)).toNat ++ p).take (1 + seqWidth v)) = k :: Codec.seqEnc v q := by
    rw [List.append_assoc, List.take_append_of_le_length (by simp [h]; omega), List.take_of_length_le (by simp [h] <;> omega)]
  have e2 : ((k :: Codec.seqEnc v q ++ be 2 (csum16 (k :: Codec.seqEnc v q ++ p)).toNat ++ p).drop (headerSize v)) = p := by
    apply List.drop_left'
    simp [h]; omega
  rw [e1, e2, List.cons_append]

theorem encode_stored (v k q p) : memRead (Codec.encode v k q p) (headerSize v - 2) 2 = be 2 (csum16 (k :: (Codec.seqEnc v q ++ p))).toNat := by
  have h := Codec.seqEnc_length v q
  have := memRead_append_mid (k :: Codec.seqEnc v q) (be 2 (csum16 (k :: (Codec.seqEnc v q ++ p))).toNat) p
  simp only [be_length, List.length_cons, h] at this
  have e : headerSize v - 2 = seqWidth v + 1 := by simp; omega
  rw [e]; exact this

theorem encode_drop (v k q p) : (Codec.encode v k q p).drop (headerSize v) = p := by
  have h := Codec.seqEnc_length v q
  apply List.drop_left'
  simp [h]; omega

theorem encode_seq (v k q p) : memRead (Codec.encode v k q p) 1 (seqWidth v) = Codec.seqEnc v q := by
  have h := Codec.seqEnc_length v q
  have := memRead_append_mid [k] (Codec.seqEnc v q) (be 2 (csum16 (k :: (Codec.seqEnc v q ++ p))).toNat ++ p)
  simp only [h, List.length_singleton] at this
  unfold Codec.encode
  simpa using this

end Sys2Proof.Machine
end

