-- ==== Sys2Proof/Laws/State.lean ====
section
/-! SUPPORT. Laws/State.lean: one lemma per field per named update of State, each true by rfl. -/

namespace Sys2Proof.Machine

@[simp] theorem State.setRegs_params (s : State) (r : Regs) : (s.setRegs r).params = s.params := rfl
@[simp] theorem State.setRegs_saUnrecognized (s : State) (r : Regs) : (s.setRegs r).saUnrecognized = s.saUnrecognized := rfl
@[simp] theorem State.setRegs_running (s : State) (r : Regs) : (s.setRegs r).running = s.running := rfl
@[simp] theorem State.setRegs_regs (s : State) (r : Regs) : (s.setRegs r).regs = r := rfl
@[simp] theorem State.setRegs_inbox (s : State) (r : Regs) : (s.setRegs r).inbox = s.inbox := rfl
@[simp] theorem State.setRegs_held (s : State) (r : Regs) : (s.setRegs r).held = s.held := rfl
@[simp] theorem State.setRegs_schedule (s : State) (r : Regs) : (s.setRegs r).schedule = s.schedule := rfl
@[simp] theorem State.setRegs_outputs (s : State) (r : Regs) : (s.setRegs r).outputs = s.outputs := rfl
@[simp] theorem State.setRegs_result (s : State) (r : Regs) : (s.setRegs r).result = s.result := rfl
@[simp] theorem State.setRegs_draws (s : State) (r : Regs) : (s.setRegs r).draws = s.draws := rfl

@[simp] theorem State.emit_params (s : State) (os : List Output) : (s.emit os).params = s.params := rfl
@[simp] theorem State.emit_saUnrecognized (s : State) (os : List Output) : (s.emit os).saUnrecognized = s.saUnrecognized := rfl
@[simp] theorem State.emit_running (s : State) (os : List Output) : (s.emit os).running = s.running := rfl
@[simp] theorem State.emit_regs (s : State) (os : List Output) : (s.emit os).regs = s.regs := rfl
@[simp] theorem State.emit_inbox (s : State) (os : List Output) : (s.emit os).inbox = s.inbox := rfl
@[simp] theorem State.emit_held (s : State) (os : List Output) : (s.emit os).held = s.held := rfl
@[simp] theorem State.emit_schedule (s : State) (os : List Output) : (s.emit os).schedule = s.schedule := rfl
@[simp] theorem State.emit_outputs (s : State) (os : List Output) : (s.emit os).outputs = s.outputs ++ os := rfl
@[simp] theorem State.emit_result (s : State) (os : List Output) : (s.emit os).result = s.result := rfl
@[simp] theorem State.emit_draws (s : State) (os : List Output) : (s.emit os).draws = s.draws := rfl

@[simp] theorem State.setResult_params (s : State) (r : OpResult) : (s.setResult r).params = s.params := rfl
@[simp] theorem State.setResult_saUnrecognized (s : State) (r : OpResult) : (s.setResult r).saUnrecognized = s.saUnrecognized := rfl
@[simp] theorem State.setResult_running (s : State) (r : OpResult) : (s.setResult r).running = s.running := rfl
@[simp] theorem State.setResult_regs (s : State) (r : OpResult) : (s.setResult r).regs = s.regs := rfl
@[simp] theorem State.setResult_inbox (s : State) (r : OpResult) : (s.setResult r).inbox = s.inbox := rfl
@[simp] theorem State.setResult_held (s : State) (r : OpResult) : (s.setResult r).held = s.held := rfl
@[simp] theorem State.setResult_schedule (s : State) (r : OpResult) : (s.setResult r).schedule = s.schedule := rfl
@[simp] theorem State.setResult_outputs (s : State) (r : OpResult) : (s.setResult r).outputs = s.outputs := rfl
@[simp] theorem State.setResult_result (s : State) (r : OpResult) : (s.setResult r).result = r := rfl
@[simp] theorem State.setResult_draws (s : State) (r : OpResult) : (s.setResult r).draws = s.draws := rfl

@[simp] theorem State.hold_params (s : State) (data : Frame) : (s.hold data).params = s.params := rfl
@[simp] theorem State.hold_saUnrecognized (s : State) (data : Frame) : (s.hold data).saUnrecognized = s.saUnrecognized := rfl
@[simp] theorem State.hold_running (s : State) (data : Frame) : (s.hold data).running = s.running := rfl
@[simp] theorem State.hold_regs (s : State) (data : Frame) : (s.hold data).regs = s.regs := rfl
@[simp] theorem State.hold_inbox (s : State) (data : Frame) : (s.hold data).inbox = s.inbox := rfl
@[simp] theorem State.hold_held (s : State) (data : Frame) : (s.hold data).held = s.held ++ [data] := rfl
@[simp] theorem State.hold_schedule (s : State) (data : Frame) : (s.hold data).schedule = s.schedule := rfl
@[simp] theorem State.hold_outputs (s : State) (data : Frame) : (s.hold data).outputs = s.outputs := rfl
@[simp] theorem State.hold_result (s : State) (data : Frame) : (s.hold data).result = s.result := rfl
@[simp] theorem State.hold_draws (s : State) (data : Frame) : (s.hold data).draws = s.draws := rfl

@[simp] theorem State.taken_params (s : State) : s.taken.params = s.params := rfl
@[simp] theorem State.taken_saUnrecognized (s : State) : s.taken.saUnrecognized = s.saUnrecognized := rfl
@[simp] theorem State.taken_running (s : State) : s.taken.running = s.running := rfl
@[simp] theorem State.taken_regs (s : State) : s.taken.regs = s.regs := rfl
@[simp] theorem State.taken_inbox (s : State) : s.taken.inbox = s.inbox := rfl
@[simp] theorem State.taken_held (s : State) : s.taken.held = s.held := rfl
@[simp] theorem State.taken_schedule (s : State) : s.taken.schedule = s.schedule.tail := rfl
@[simp] theorem State.taken_outputs (s : State) : s.taken.outputs = s.outputs := rfl
@[simp] theorem State.taken_result (s : State) : s.taken.result = s.result := rfl
@[simp] theorem State.taken_draws (s : State) : s.taken.draws = s.draws + 1 := rfl

/-- Appending outputs twice is appending them in order (R73). -/
@[simp] theorem State.emit_emit (s : State) (os ps : List Output) : (s.emit os).emit ps = s.emit (os ++ ps) := by
  simp [State.emit]

/-- The literal of Machine/State.lean is the reset of `Config.resetCfg`. -/
theorem State.reset_eq_resetOf : State.reset = State.resetOf Config.resetCfg := rfl

@[simp] theorem State.resetOf_running (cfg : Cfg) : (State.resetOf cfg).running = true := rfl
@[simp] theorem State.resetOf_outputs (cfg : Cfg) : (State.resetOf cfg).outputs = [] := rfl
@[simp] theorem State.resetOf_held (cfg : Cfg) : (State.resetOf cfg).held = [] := rfl
@[simp] theorem State.resetOf_regs (cfg : Cfg) :
    (State.resetOf cfg).regs = Regs.initial cfg.role cfg.variant [] 0 := rfl
@[simp] theorem State.resetOf_mss (cfg : Cfg) : (State.resetOf cfg).params.mss = cfg.mss := rfl
@[simp] theorem State.resetOf_n (cfg : Cfg) : (State.resetOf cfg).params.n = cfg.n := rfl
@[simp] theorem State.resetOf_timeoutTicks (cfg : Cfg) :
    (State.resetOf cfg).params.timeoutTicks = cfg.timeoutTicks := rfl

end Sys2Proof.Machine
end

