-- ==== Sys2Proof/Laws/Guards.lean ====
section
/-! SUPPORT. Laws/Guards.lean: for each shared guard of Machine/Ops.lean, once, everything it can answer. -/

namespace Sys2Proof.Machine

theorem misaddressed_ne_next (s t : State) : misaddressed s ≠ .next t := by
  unfold misaddressed; split <;> simp

theorem misaddressed_ne_fault (s : State) (e : Fault) : misaddressed s ≠ .fault e := by
  unfold misaddressed; split <;> simp

@[simp] theorem discard_eq (s : State) : discard s = .next s := rfl

@[simp] theorem raiseFramingError_eq (n : Nat) (s : State) :
    raiseFramingError n s = .next (s.emit [.framingError n]) := rfl

/-- A guarded event answers next: the instance is stopped and nothing happened, or the handler answered. -/
theorem whileRunning_eq_next {s t : State} {k : Result} (h : whileRunning s k = .next t) :
    (s.running = false ∧ t = s) ∨ (s.running = true ∧ k = .next t) := by
  unfold whileRunning at h
  cases hr : s.running <;> rw [hr] at h
  · exact .inl ⟨rfl, by simpa using h.symm⟩
  · exact .inr ⟨rfl, h⟩

/-- A SEND answers next: stopped, held, or accepted. -/
theorem sendEvent_eq_next {ready : Bool} {data : Frame} {s t : State} {k : Result}
    (h : sendEvent ready data s k = .next t) :
    (s.running = false ∧ t = s) ∨ (s.running = true ∧ ready = false ∧ t = s.hold data) ∨
      (s.running = true ∧ ready = true ∧ data.length ≤ s.params.mss ∧ k = .next t) := by
  rcases whileRunning_eq_next h with h | ⟨hr, h⟩
  · exact .inl h
  · cases ready
    · exact .inr (.inl ⟨hr, rfl, by simpa using h.symm⟩)
    · rw [if_pos rfl] at h
      split at h
      · exact .inr (.inr ⟨hr, rfl, ‹_›, h⟩)
      · cases h

/-- An RX answers next: stopped, or a frame of a legal length was handled. -/
theorem rxEvent_eq_next {v : Variant} {f : Frame} {s t : State} {k : Result} (h : rxEvent v f s k = .next t) :
    (s.running = false ∧ t = s) ∨
      (s.running = true ∧ f.length ≤ headerSize v + s.params.mss ∧ k = .next t) := by
  rcases whileRunning_eq_next h with h | ⟨hr, h⟩
  · exact .inl h
  · split at h
    · exact .inr ⟨hr, ‹_›, h⟩
    · cases h

/-- A handler over DECODE answers next: FramingError, or the record's handler answered. -/
theorem onDecoded_eq_next {v : Variant} {f : Frame} {s t : State} {k : Decoded → Result}
    (h : onDecoded v f s k = .next t) :
    (f.length < headerSize v ∧ t = s.emit [.framingError f.length]) ∨
      ∃ d, Codec.decode v f = .ok d ∧ k d = .next t := by
  unfold onDecoded at h
  cases hd : Codec.decode v f with
  | error n =>
    rw [hd] at h
    unfold Codec.decode at hd
    split at hd
    · cases hd; exact .inl ⟨‹_›, by simpa using h.symm⟩
    · cases hd
  | ok d => rw [hd] at h; exact .inr ⟨d, rfl, h⟩

/-- TIMEOUT answers next: stopped, or the flag was set and the handler answered. -/
theorem timeoutEvent_eq_next {tm : Timer} {s t : State} {k : Result} (h : timeoutEvent tm s k = .next t) :
    (s.running = false ∧ t = s) ∨ (s.running = true ∧ tm.expired = true ∧ k = .next t) := by
  rcases whileRunning_eq_next h with h | ⟨hr, h⟩
  · exact .inl h
  · cases he : tm.expired <;> rw [he] at h
    · cases h
    · exact .inr ⟨hr, rfl, h⟩

/-- A timer operation answers next: only the timer of the instance that owns it changes. -/
theorem onTimer_eq_next {v : TimedVariant} {s t : State} {g : Timer → Timer} (h : onTimer v s g = .next t) :
    (∃ r, v = .c ∧ s.regs = .senderC r ∧ t = s.setRegs (.senderC { r with timer := g r.timer })) ∨
      (∃ r, v = .d ∧ s.regs = .senderD r ∧ t = s.setRegs (.senderD { r with timer := g r.timer })) := by
  unfold onTimer at h
  split at h
  · next r hr => exact .inl ⟨r, rfl, hr, by simpa using h.symm⟩
  · next r hr => exact .inr ⟨r, rfl, hr, by simpa using h.symm⟩
  · exact absurd h (misaddressed_ne_next s t)

end Sys2Proof.Machine
end

