-- ==== Sys2Proof/Laws/Timer.lean ====
section
/-! SUPPORT. Laws/Timer.lean: the timer operations register by register, and that each keeps the timer sound
(45_retransmission_timer.md R252 to R258). -/

namespace Sys2Proof.Machine

namespace Timer

@[simp] theorem arm_armed (k : Nat) (t : Timer) : (t.arm k).armed = true := rfl
@[simp] theorem arm_expired (k : Nat) (t : Timer) : (t.arm k).expired = false := rfl
@[simp] theorem arm_remaining (k : Nat) (t : Timer) : (t.arm k).remaining = k := rfl
@[simp] theorem service_armed (t : Timer) : t.service.armed = t.armed := rfl
@[simp] theorem service_expired (t : Timer) : t.service.expired = false := rfl
@[simp] theorem service_remaining (t : Timer) : t.service.remaining = t.remaining := rfl

@[simp] theorem cancel_armed (u : Nat) (t : Timer) : (t.cancel u).armed = false := by
  unfold cancel; split
  · rfl
  · next h => simpa using (Bool.or_eq_false_iff.mp (Bool.eq_false_iff.mpr h)).1

@[simp] theorem cancel_expired (u : Nat) (t : Timer) : (t.cancel u).expired = false := by
  unfold cancel; split
  · rfl
  · next h => simpa using (Bool.or_eq_false_iff.mp (Bool.eq_false_iff.mpr h)).2

theorem arm_sound (k : Nat) (t : Timer) (hk : 1 ≤ k) : (t.arm k).Sound k :=
  ⟨by simp, by simp, fun _ => hk⟩

theorem cancel_sound {k u : Nat} {t : Timer} (hu : u ≤ k) (h : t.Sound k) : (t.cancel u).Sound k := by
  refine ⟨by simp, ?_, by simp⟩
  unfold cancel; split
  · exact hu
  · exact h.2.1

theorem service_sound {k : Nat} {t : Timer} (h : t.Sound k) : t.service.Sound k :=
  ⟨by simp, h.2.1, h.2.2⟩

theorem tick_sound {k : Nat} {t : Timer} (h : t.Sound k) : t.tick.Sound k := by
  obtain ⟨h1, h2, h3⟩ := h
  unfold tick
  split
  · next ha =>
    split
    · exact ⟨by simp, by simp, by simp⟩
    · exact ⟨h1, by simpa using by omega, fun _ => by simpa using by omega⟩
  · exact ⟨h1, h2, h3⟩

end Timer

/-- The unspecified `remaining` stays in its range (R33). -/
theorem unspecifiedRemaining_le (ticks draws : Nat) : unspecifiedRemaining ticks draws ≤ ticks :=
  Nat.le_of_lt_succ (Nat.mod_lt _ (Nat.succ_pos ticks))

/-- The unspecified `last_packet` stays in its range (R39). -/
theorem unspecifiedPacket_length (v : Variant) (mss draws : Nat) :
    (unspecifiedPacket v mss draws).length ≤ headerSize v + mss := by
  unfold unspecifiedPacket; simp only [List.length_take]; exact Nat.min_le_left _ _

end Sys2Proof.Machine
end

