-- ==== Sys2Proof/Laws/Effects.lean ====
section
/-! SUPPORT. Laws/Effects.lean: once, everything an instruction that answers a next state can have done. A statement over all
instructions goes through `exec_effect` and a case split over `Effect`, and unfolds no meaning. -/

namespace Sys2Proof.Machine

/-- What an instruction other than RESET and the timer operations can do to an instance. -/
inductive Effect (s t : State) : Prop where
  /-- Discarded, or nothing to do. -/
  | same (h : t = s)
  /-- SEND held (R17). -/
  | held (data) (h : t = s.hold data) (hr : s.running = true)
  /-- FramingError (R270). -/
  | framingError (n) (h : t = s.emit [.framingError n])
  /-- A codec function returned. -/
  | result (r) (h : t = s.setResult r)
  /-- R160. -/
  | aSend (r data) (hr : s.regs = .senderA r) (hp : r.phase = .idle) (hl : data.length ≤ s.params.mss)
      (h : t = (s.setRegs (.senderA { phase := .awaitingResponse, lastPacket := Codec.encode .a kindData 0 data })).emit [.tx (Codec.encode .a kindData 0 data)])
  /-- R162 (c), (d), (f). -/
  | aRetransmit (r) (hr : s.regs = .senderA r) (hp : r.phase = .awaitingResponse) (h : t = s.emit [.tx r.lastPacket])
  /-- R162 (e). -/
  | aDone (r) (hr : s.regs = .senderA r) (hp : r.phase = .awaitingResponse) (h : t = (s.setRegs (.senderA { r with phase := .idle })).emit [.done none])
  /-- R164 (b). -/
  | aReply (k) (hr : s.regs = .receiverA) (h : t = s.emit [.tx (Codec.control .a k 0)])
  /-- R164 (c). -/
  | aDeliver (p) (hr : s.regs = .receiverA) (h : t = s.emit [.deliver p, .tx (Codec.control .a kindAck 0)])
  /-- R180. -/
  | bSend (r data) (hr : s.regs = .senderB r) (hp : r.phase = .ready) (hl : data.length ≤ s.params.mss)
      (h : t = (s.setRegs (.senderB { r with phase := .waitAck, lastPacket := Codec.encode .b kindData r.currentSequence.toNat data })).emit [.tx (Codec.encode .b kindData r.currentSequence.toNat data)])
  /-- R182 (f), (g). -/
  | bRetransmit (r) (hr : s.regs = .senderB r) (hp : r.phase = .waitAck) (h : t = s.emit [.tx r.lastPacket])
  /-- R182 (e). -/
  | bDone (r) (hr : s.regs = .senderB r) (hp : r.phase = .waitAck) (h : t = (s.setRegs (.senderB { r with currentSequence := flipBit r.currentSequence, phase := .ready })).emit [.done none])
  /-- R184 (b), (e). -/
  | bReply (e k q) (hr : s.regs = .receiverB e) (h : t = s.emit [.tx (Codec.control .b k q)])
  /-- R184 (d). -/
  | bDeliver (e p) (hr : s.regs = .receiverB e) (h : t = (s.setRegs (.receiverB (flipBit e))).emit [.deliver p, .tx (Codec.control .b kindAck e.toNat)])
  /-- R200. -/
  | cSend (r data) (hr : s.regs = .senderC r) (hrun : s.running = true) (hp : r.phase = .ready) (hl : data.length ≤ s.params.mss)
      (h : t = (s.setRegs (.senderC { r with phase := .waitAck, lastPacket := Codec.encode .c kindData r.currentSequence.toNat data, timer := r.timer.arm s.params.timeoutTicks })).emit [.tx (Codec.encode .c kindData r.currentSequence.toNat data)])
  /-- R202 (c). -/
  | cDone (r) (hr : s.regs = .senderC r) (hrun : s.running = true) (hp : r.phase = .waitAck) (h : t = (s.setRegs (.senderC { r with phase := .ready, currentSequence := r.currentSequence + 1, timer := r.timer.cancel (unspecifiedRemaining s.params.timeoutTicks s.draws) })).emit [.done none])
  /-- R204, a packet outstanding. -/
  | cTimeout (r) (hr : s.regs = .senderC r) (hrun : s.running = true) (he : r.timer.expired = true) (hp : r.phase = .waitAck) (h : t = (s.setRegs (.senderC { r with timer := r.timer.service.arm s.params.timeoutTicks })).emit [.tx r.lastPacket])
  /-- R204, nothing outstanding. -/
  | cTimeoutIdle (r) (hr : s.regs = .senderC r) (hrun : s.running = true) (he : r.timer.expired = true) (hp : r.phase = .ready) (h : t = s.setRegs (.senderC { r with timer := r.timer.service }))
  /-- R206 (b), (e). -/
  | cReply (e) (hr : s.regs = .receiverC e) (h : t = s.emit [.tx (Codec.control .c kindAck (e - 1).toNat)])
  /-- R206 (d). -/
  | cDeliver (e p) (hr : s.regs = .receiverC e) (h : t = (s.setRegs (.receiverC (e + 1))).emit [.deliver p, .tx (Codec.control .c kindAck e.toNat)])
  /-- R220. -/
  | dSend (r data) (hr : s.regs = .senderD r) (hrun : s.running = true) (hw : r.outstanding < s.params.n) (hl : data.length ≤ s.params.mss)
      (h : t = (s.setRegs (.senderD { r with buffer := r.buffer.write r.nextToSend (Codec.encode .d kindData r.nextToSend.toNat data), nextToSend := r.nextToSend + 1, timer := if r.base = r.nextToSend then r.timer.arm s.params.timeoutTicks else r.timer })).emit [.tx (Codec.encode .d kindData r.nextToSend.toNat data)])
  /-- R222 (e). -/
  | dAck (r q) (hr : s.regs = .senderD r) (hrun : s.running = true) (hq : (q - r.base).toNat < r.outstanding)
      (h : acknowledge r q s = .next t)
  /-- R224, packets outstanding. -/
  | dTimeout (r frames) (hr : s.regs = .senderD r) (hrun : s.running = true) (he : r.timer.expired = true) (hb : r.base ≠ r.nextToSend) (hf : r.buffer.readAll (seqRun r.base r.outstanding) = .ok frames)
      (h : t = (s.setRegs (.senderD { r with timer := r.timer.service.arm s.params.timeoutTicks })).emit (frames.map .tx))
  /-- R224, nothing outstanding. -/
  | dTimeoutIdle (r) (hr : s.regs = .senderD r) (hrun : s.running = true) (he : r.timer.expired = true) (hb : r.base = r.nextToSend) (h : t = s.setRegs (.senderD { r with timer := r.timer.service }))
  /-- R228 (b), (e). -/
  | dReply (e) (hr : s.regs = .receiverD e) (h : t = s.emit [.tx (Codec.control .d kindAck (e - 1).toNat)])
  /-- R228 (d). -/
  | dDeliver (e p) (hr : s.regs = .receiverD e) (h : t = (s.setRegs (.receiverD (e + 1))).emit [.deliver p, .tx (Codec.control .d kindAck e.toNat)])
  /-- R290. -/
  | shutdown (h : t = { s with running := false, regs := shutdownRegs (unspecifiedRemaining s.params.timeoutTicks s.draws) s.regs })

theorem saSend_effect {data s t} (h : execSaSend data s = .next t) : Effect s t := by
  unfold execSaSend at h
  split at h
  · next r hr =>
    rcases sendEvent_eq_next h with ⟨_, rfl⟩ | ⟨hrun, _, rfl⟩ | ⟨_, hp, hl, h⟩
    · exact .same rfl
    · exact .held data rfl hrun
    · cases h; exact .aSend r data hr (by simpa using hp) hl (by simp)
  · exact absurd h (misaddressed_ne_next s t)

theorem sbSend_effect {data s t} (h : execSbSend data s = .next t) : Effect s t := by
  unfold execSbSend at h
  split at h
  · next r hr =>
    rcases sendEvent_eq_next h with ⟨_, rfl⟩ | ⟨hrun, _, rfl⟩ | ⟨_, hp, hl, h⟩
    · exact .same rfl
    · exact .held data rfl hrun
    · cases h; exact .bSend r data hr (by simpa using hp) hl (by simp)
  · exact absurd h (misaddressed_ne_next s t)

theorem scSend_effect {data s t} (h : execScSend data s = .next t) : Effect s t := by
  unfold execScSend at h
  split at h
  · next r hr =>
    rcases sendEvent_eq_next h with ⟨_, rfl⟩ | ⟨hrun, _, rfl⟩ | ⟨hrun, hp, hl, h⟩
    · exact .same rfl
    · exact .held data rfl hrun
    · cases h; exact .cSend r data hr hrun (by simpa using hp) hl (by simp)
  · exact absurd h (misaddressed_ne_next s t)

theorem sdSend_effect {data s t} (h : execSdSend data s = .next t) : Effect s t := by
  unfold execSdSend at h
  split at h
  · next r hr =>
    rcases sendEvent_eq_next h with ⟨_, rfl⟩ | ⟨hrun, _, rfl⟩ | ⟨hrun, hp, hl, h⟩
    · exact .same rfl
    · exact .held data rfl hrun
    · cases h; exact .dSend r data hr hrun (by simpa [SenderD.windowOpen] using hp) hl (by simp)
  · exact absurd h (misaddressed_ne_next s t)

theorem saRx_effect {f s t} (h : execSaRx f s = .next t) : Effect s t := by
  unfold execSaRx at h
  split at h
  · next r hr =>
    rcases rxEvent_eq_next h with ⟨_, rfl⟩ | ⟨hrun, hl, h⟩
    · exact .same rfl
    · split at h
      · cases h; exact .same rfl
      · next hp =>
        rcases onDecoded_eq_next h with ⟨_, rfl⟩ | ⟨d, hd, h⟩
        · exact .framingError _ rfl
        · split at h
          · cases h; exact .aRetransmit r hr hp rfl
          · split at h
            · cases h; exact .aRetransmit r hr hp rfl
            · split at h
              · cases h; exact .aDone r hr hp rfl
              · split at h
                · cases h; exact .aRetransmit r hr hp rfl
                · cases h; exact .same rfl
  · exact absurd h (misaddressed_ne_next s t)

theorem raRx_effect {f s t} (h : execRaRx f s = .next t) : Effect s t := by
  unfold execRaRx at h
  split at h
  · next hr =>
    rcases rxEvent_eq_next h with ⟨_, rfl⟩ | ⟨hrun, hl, h⟩
    · exact .same rfl
    · rcases onDecoded_eq_next h with ⟨_, rfl⟩ | ⟨d, hd, h⟩
      · exact .framingError _ rfl
      · split at h
        · cases h; exact .aReply _ hr rfl
        · split at h
          · cases h; exact .aDeliver _ hr rfl
          · cases h; exact .same rfl
  · exact absurd h (misaddressed_ne_next s t)

theorem sbRx_effect {f s t} (h : execSbRx f s = .next t) : Effect s t := by
  unfold execSbRx at h
  split at h
  · next r hr =>
    rcases rxEvent_eq_next h with ⟨_, rfl⟩ | ⟨hrun, hl, h⟩
    · exact .same rfl
    · split at h
      · cases h; exact .same rfl
      · next hp =>
        rcases onDecoded_eq_next h with ⟨_, rfl⟩ | ⟨d, hd, h⟩
        · exact .framingError _ rfl
        · split at h
          · cases h; exact .same rfl
          · split at h
            · cases h; exact .same rfl
            · split at h
              · cases h; exact .bDone r hr hp rfl
              · split at h
                · cases h; exact .bRetransmit r hr hp rfl
                · cases h; exact .bRetransmit r hr hp rfl
  · exact absurd h (misaddressed_ne_next s t)

theorem rbRx_effect {f s t} (h : execRbRx f s = .next t) : Effect s t := by
  unfold execRbRx at h
  split at h
  · next e hr =>
    rcases rxEvent_eq_next h with ⟨_, rfl⟩ | ⟨hrun, hl, h⟩
    · exact .same rfl
    · rcases onDecoded_eq_next h with ⟨_, rfl⟩ | ⟨d, hd, h⟩
      · exact .framingError _ rfl
      · split at h
        · cases h; exact .bReply e _ _ hr rfl
        · split at h
          · cases h; exact .same rfl
          · split at h
            · cases h; exact .bDeliver e _ hr rfl
            · cases h; exact .bReply e _ _ hr rfl
  · exact absurd h (misaddressed_ne_next s t)

theorem scRx_effect {f s t} (h : execScRx f s = .next t) : Effect s t := by
  unfold execScRx at h
  split at h
  · next r hr =>
    rcases rxEvent_eq_next h with ⟨_, rfl⟩ | ⟨hrun, hl, h⟩
    · exact .same rfl
    · split at h
      · cases h; exact .same rfl
      · next hp =>
        rcases onDecoded_eq_next h with ⟨_, rfl⟩ | ⟨d, hd, h⟩
        · exact .framingError _ rfl
        · split at h
          · cases h; exact .cDone r hr hrun hp rfl
          · cases h; exact .same rfl
  · exact absurd h (misaddressed_ne_next s t)

theorem rcRx_effect {f s t} (h : execRcRx f s = .next t) : Effect s t := by
  unfold execRcRx at h
  split at h
  · next e hr =>
    rcases rxEvent_eq_next h with ⟨_, rfl⟩ | ⟨hrun, hl, h⟩
    · exact .same rfl
    · rcases onDecoded_eq_next h with ⟨_, rfl⟩ | ⟨d, hd, h⟩
      · exact .framingError _ rfl
      · split at h
        · cases h; exact .cReply e hr rfl
        · split at h
          · cases h; exact .same rfl
          · split at h
            · cases h; exact .cDeliver e _ hr rfl
            · cases h; exact .cReply e hr rfl
  · exact absurd h (misaddressed_ne_next s t)

theorem sdRx_effect {f s t} (h : execSdRx f s = .next t) : Effect s t := by
  unfold execSdRx at h
  split at h
  · next r hr =>
    rcases rxEvent_eq_next h with ⟨_, rfl⟩ | ⟨hrun, hl, h⟩
    · exact .same rfl
    · rcases onDecoded_eq_next h with ⟨_, rfl⟩ | ⟨d, hd, h⟩
      · exact .framingError _ rfl
      · split at h
        · cases h; exact .same rfl
        · split at h
          · cases h; exact .same rfl
          · simp only at h
            split at h
            · next hq => exact .dAck r _ hr hrun (by simpa [SenderD.insideWindow, -BitVec.toNat_sub] using hq) h
            · cases h; exact .same rfl
  · exact absurd h (misaddressed_ne_next s t)

theorem rdRx_effect {f s t} (h : execRdRx f s = .next t) : Effect s t := by
  unfold execRdRx at h
  split at h
  · next e hr =>
    rcases rxEvent_eq_next h with ⟨_, rfl⟩ | ⟨hrun, hl, h⟩
    · exact .same rfl
    · rcases onDecoded_eq_next h with ⟨_, rfl⟩ | ⟨d, hd, h⟩
      · exact .framingError _ rfl
      · split at h
        · cases h; exact .dReply e hr rfl
        · split at h
          · cases h; exact .same rfl
          · split at h
            · cases h; exact .dDeliver e _ hr rfl
            · cases h; exact .dReply e hr rfl
  · exact absurd h (misaddressed_ne_next s t)

theorem scTo_effect {s t} (h : execScTimeout s = .next t) : Effect s t := by
  unfold execScTimeout at h
  split at h
  · next r hr =>
    rcases timeoutEvent_eq_next h with ⟨_, rfl⟩ | ⟨hrun, he, h⟩
    · exact .same rfl
    · split at h
      · next hp => cases h; exact .cTimeout r hr hrun he hp rfl
      · next hp => cases h; exact .cTimeoutIdle r hr hrun he hp rfl
  · exact absurd h (misaddressed_ne_next s t)

theorem sdTo_effect {s t} (h : execSdTimeout s = .next t) : Effect s t := by
  unfold execSdTimeout at h
  split at h
  · next r hr =>
    rcases timeoutEvent_eq_next h with ⟨_, rfl⟩ | ⟨hrun, he, h⟩
    · exact .same rfl
    · split at h
      · next hb => cases h; exact .dTimeoutIdle r hr hrun he hb rfl
      · next hb =>
        split at h
        · cases h
        · next fr hf => cases h; exact .dTimeout r fr hr hrun he hb hf rfl
  · exact absurd h (misaddressed_ne_next s t)

theorem arrival_effect {f s t} (h : arrival f s = .next t) : Effect s t := by
  unfold arrival at h
  split at h
  · exact absurd h (misaddressed_ne_next s t)
  · exact saRx_effect h
  · exact sbRx_effect h
  · exact scRx_effect h
  · exact sdRx_effect h
  · exact raRx_effect h
  · exact rbRx_effect h
  · exact rcRx_effect h
  · exact rdRx_effect h

/-- The timer operation as a function on the timer's registers. -/
def timerFunction (s : State) : Instr → Option (TimedVariant × (Timer → Timer))
  | .tmrArm v => some (v, Timer.arm s.params.timeoutTicks)
  | .tmrCancel v => some (v, Timer.cancel (unspecifiedRemaining s.params.timeoutTicks s.draws))
  | .tmrRestart v => some (v, Timer.restart (unspecifiedRemaining s.params.timeoutTicks s.draws) s.params.timeoutTicks)
  | .tmrTick v => some (v, if s.running then Timer.tick else id)
  | _ => none

theorem timerFunction_sound {s i v g} (h : timerFunction s i = some (v, g)) (x : Timer)
    (hx : x.Sound s.params.timeoutTicks) (h1 : 1 ≤ s.params.timeoutTicks) : (g x).Sound s.params.timeoutTicks := by
  cases i <;> simp [timerFunction] at h <;> obtain ⟨rfl, rfl⟩ := h
  · exact Timer.arm_sound _ _ h1
  · exact Timer.cancel_sound (unspecifiedRemaining_le _ _) hx
  · exact Timer.arm_sound _ _ h1
  · split
    · exact Timer.tick_sound hx
    · exact hx

/-- Whatever answers a next state is RESET, a timer operation, or has one of the effects listed. -/
theorem exec_effect {i s t} (h : exec i s = .next t) :
    (∃ cfg, i = .reset cfg) ∨ (∃ v g, timerFunction s i = some (v, g) ∧ onTimer v s g = .next t) ∨ Effect s t := by
  cases i with
  | reset cfg => exact .inl ⟨cfg, rfl⟩
  | csum16 r v bs => right; right; cases h; exact .result _ rfl
  | seqEnc r v q => right; right; simp only [exec, execSeqEnc] at h; split at h <;> cases h; exact .result _ rfl
  | seqDec r v q => right; right; simp only [exec, execSeqDec] at h; split at h <;> cases h; exact .result _ rfl
  | encode r v k q p =>
    right; right; simp only [exec, execEncode] at h
    (repeat' split at h) <;> cases h
    exact .result _ rfl
  | decode r v f =>
    right; right; rcases onDecoded_eq_next h with ⟨_, rfl⟩ | ⟨d, hd, h⟩
    · exact .framingError _ rfl
    · cases h; exact .result _ rfl
  | saSend _ => exact .inr <| .inr (saSend_effect h)
  | sbSend _ => exact .inr <| .inr (sbSend_effect h)
  | scSend _ => exact .inr <| .inr (scSend_effect h)
  | sdSend _ => exact .inr <| .inr (sdSend_effect h)
  | saRx _ => exact .inr <| .inr (saRx_effect h)
  | sbRx _ => exact .inr <| .inr (sbRx_effect h)
  | scRx _ => exact .inr <| .inr (scRx_effect h)
  | sdRx _ => exact .inr <| .inr (sdRx_effect h)
  | raRx _ => exact .inr <| .inr (raRx_effect h)
  | rbRx _ => exact .inr <| .inr (rbRx_effect h)
  | rcRx _ => exact .inr <| .inr (rcRx_effect h)
  | rdRx _ => exact .inr <| .inr (rdRx_effect h)
  | scTimeout => exact .inr <| .inr (scTo_effect h)
  | sdTimeout => exact .inr <| .inr (sdTo_effect h)
  | tmrArm v => exact .inr (.inl ⟨_, _, rfl, h⟩)
  | tmrCancel v => exact .inr (.inl ⟨_, _, rfl, h⟩)
  | tmrRestart v => exact .inr (.inl ⟨_, _, rfl, h⟩)
  | tmrTick v => exact .inr (.inl ⟨_, _, rfl, h⟩)
  | shutdown r v =>
    right; right; simp only [exec, execShutdown] at h; split at h
    · cases h; exact .shutdown rfl
    · exact absurd h (misaddressed_ne_next s t)
  | _ => exact .inr <| .inr (arrival_effect h)

end Sys2Proof.Machine
end

