-- ==== Sys2Proof/Laws/Memory.lean ====
section
/-! SUPPORT. Laws/Memory.lean: the in-flight buffer: read after write and after erase, and that every operation keeps the
canonical form (20_memory.md R63). -/

namespace Sys2Proof.Machine

namespace Memory

@[simp] theorem read_nil (q : Seq32) : Memory.read [] q = none := rfl

theorem read_cons (k q : Seq32) (f : Frame) (m : Memory) :
    Memory.read ((k, f) :: m) q = if q = k then some f else Memory.read m q := by
  unfold Memory.read
  by_cases h : q = k
  · subst h; simp [List.lookup]
  · have hb : (q == k) = false := by simpa using h
    simp [List.lookup, hb, h]

@[simp] theorem wf_nil : Memory.wf [] := List.Pairwise.nil

/-- A key below every listed key is not in the map. -/
theorem read_eq_none_of_lt (m : Memory) (q : Seq32) (h : ∀ e ∈ m, q.toNat < e.1.toNat) : Memory.read m q = none := by
  induction m with
  | nil => rfl
  | cons e m ih =>
    obtain ⟨k, f⟩ := e
    have hk := h (k, f) (List.mem_cons_self ..)
    rw [read_cons, if_neg (by rintro rfl; exact Nat.lt_irrefl _ hk)]
    exact ih fun e he => h e (List.mem_cons_of_mem _ he)

/-- One lemma for a write: the written key holds the frame, every other key what it held. -/
theorem read_write (m : Memory) (q : Seq32) (f : Frame) (x : Seq32) (hm : m.wf) :
    (m.write q f).read x = if x = q then some f else m.read x := by
  induction m with
  | nil => simp [Memory.write, read_cons]
  | cons e m ih =>
    obtain ⟨k, g⟩ := e
    have hm' : Memory.wf m := (List.pairwise_cons.mp hm).2
    unfold Memory.write
    split
    · rw [read_cons]
    · split
      · next h => subst h; simp only [read_cons]; split <;> rfl
      · next h =>
        rw [read_cons, read_cons, ih hm']
        by_cases hx : x = k
        · subst hx; rw [if_pos rfl, if_pos rfl, if_neg (fun e => h e.symm)]
        · rw [if_neg hx, if_neg hx]

theorem mem_write {m : Memory} {q : Seq32} {f : Frame} {e : Seq32 × Frame} (h : e ∈ m.write q f) :
    e.1 = q ∨ e ∈ m := by
  induction m with
  | nil => simp [Memory.write] at h; exact .inl (by rw [h])
  | cons x m ih =>
    obtain ⟨k, g⟩ := x
    unfold Memory.write at h
    split at h
    · rcases List.mem_cons.mp h with rfl | h
      · exact .inl rfl
      · exact .inr h
    · split at h
      · rcases List.mem_cons.mp h with rfl | h
        · exact .inl rfl
        · exact .inr (List.mem_cons_of_mem _ h)
      · rcases List.mem_cons.mp h with rfl | h
        · exact .inr (List.mem_cons_self ..)
        · exact (ih h).imp id (List.mem_cons_of_mem _)

theorem wf_write (m : Memory) (q : Seq32) (f : Frame) (hm : m.wf) : (m.write q f).wf := by
  induction m with
  | nil => exact List.pairwise_singleton ..
  | cons e m ih =>
    obtain ⟨k, g⟩ := e
    have hc := List.pairwise_cons.mp hm
    unfold Memory.write
    split
    · next h =>
      refine List.pairwise_cons.mpr ⟨fun e he => ?_, hm⟩
      rcases List.mem_cons.mp he with rfl | he
      · exact h
      · exact Nat.lt_trans h (hc.1 e he)
    · next hlt =>
      split
      · next h => subst h; exact List.pairwise_cons.mpr ⟨hc.1, hc.2⟩
      · next h =>
        refine List.pairwise_cons.mpr ⟨fun e he => ?_, ih hc.2⟩
        rcases mem_write he with he | he
        · rw [he]
          have hne : q.toNat ≠ k.toNat := fun e => h (BitVec.eq_of_toNat_eq e)
          exact Nat.lt_of_le_of_ne (Nat.le_of_not_lt hlt) hne.symm
        · exact hc.1 e he

theorem wf_erase (m : Memory) (q : Seq32) (hm : m.wf) : (m.erase q).wf := List.Pairwise.filter _ hm

theorem read_erase (m : Memory) (q x : Seq32) : (m.erase q).read x = if x = q then none else m.read x := by
  induction m with
  | nil => simp [Memory.erase]
  | cons e m ih =>
    obtain ⟨k, f⟩ := e
    unfold Memory.erase at ih ⊢
    by_cases hk : k = q
    · subst hk
      rw [List.filter_cons_of_neg (by simp), ih, read_cons]
      split <;> rfl
    · rw [List.filter_cons_of_pos (by simpa using hk), read_cons, read_cons, ih]
      by_cases hx : x = k
      · subst hx; rw [if_pos rfl, if_pos rfl, if_neg hk]
      · rw [if_neg hx, if_neg hx]

theorem wf_eraseAll (m : Memory) (qs : List Seq32) (hm : m.wf) : (m.eraseAll qs).wf := by
  induction qs generalizing m with
  | nil => exact hm
  | cons q qs ih => exact ih _ (wf_erase m q hm)

theorem read_eraseAll (m : Memory) (qs : List Seq32) (x : Seq32) :
    (m.eraseAll qs).read x = if x ∈ qs then none else m.read x := by
  induction qs generalizing m with
  | nil => simp [Memory.eraseAll]
  | cons q qs ih =>
    have : (m.eraseAll (q :: qs)).read x = ((m.erase q).eraseAll qs).read x := rfl
    rw [this, ih, read_erase]
    by_cases hx : x = q <;> by_cases hq : x ∈ qs <;> simp [hx, hq]

/-- `readAll` answers frames exactly when every key has one, and then the frames in the keys' order. -/
theorem readAll_eq_ok (m : Memory) (qs : List Seq32) (fs : List Frame) :
    m.readAll qs = .ok fs ↔ qs.map m.read = fs.map some := by
  induction qs generalizing fs with
  | nil => cases fs <;> simp [Memory.readAll]
  | cons q qs ih =>
    unfold Memory.readAll
    cases hq : m.read q with
    | none => cases fs <;> simp [hq]
    | some f =>
      cases hr : m.readAll qs with
      | error e =>
        constructor
        · simp
        · intro h
          cases fs with
          | nil => simp at h
          | cons g gs =>
            simp only [List.map_cons, List.cons.injEq] at h
            have := (ih gs).mpr h.2
            rw [hr] at this; cases this
      | ok gs =>
        have hgs := (ih gs).mp hr
        cases fs with
        | nil => simp
        | cons g rest =>
          simp only [Except.ok.injEq, List.cons.injEq, List.map_cons, hq, Option.some.injEq, hgs]
          constructor
          · rintro ⟨rfl, rfl⟩; exact ⟨rfl, rfl⟩
          · rintro ⟨rfl, h⟩; exact ⟨rfl, (List.map_inj_right (fun _ _ e => Option.some.inj e)).mp h⟩

end Memory

end Sys2Proof.Machine
end

