-- ==== Sys2Proof/Laws/Window.lean ====
section
/-! SUPPORT. Laws/Window.lean: the window of variant D (44_variant_D_go_back_n.md): the sequences of `seqRun` and the two
window tests, as arithmetic on modular distances. -/

namespace Sys2Proof.Machine

theorem seqRun_eq (b : Seq32) (n : Nat) : seqRun b n = (List.range n).map (fun i => b + BitVec.ofNat 32 i) := by
  induction n generalizing b with
  | zero => rfl
  | succ n ih =>
    rw [seqRun, ih, List.range_succ_eq_map, List.map_cons, List.map_map]
    congr 1
    · simp
    · apply List.map_congr_left
      intro i _
      simp only [Function.comp]
      rw [BitVec.add_assoc]; congr 1
      apply BitVec.eq_of_toNat_eq; simp [BitVec.toNat_add, Nat.add_comm]

theorem mem_seqRun (b x : Seq32) (n : Nat) (hn : n ≤ 2^32) : x ∈ seqRun b n ↔ (x - b).toNat < n := by
  rw [seqRun_eq, List.mem_map]
  constructor
  · rintro ⟨i, hi, rfl⟩
    rw [List.mem_range] at hi
    have : (b + BitVec.ofNat 32 i - b) = BitVec.ofNat 32 i := by bv_omega
    rw [this, BitVec.toNat_ofNat, Nat.mod_eq_of_lt (by omega)]; exact hi
  · intro h
    refine ⟨(x - b).toNat, List.mem_range.mpr h, ?_⟩
    bv_omega

theorem sub_zero_iff (a b : Seq32) : (a - b).toNat = 0 ↔ a = b := by bv_omega

theorem outstanding_eq_zero (r : SenderD) : r.outstanding = 0 ↔ r.base = r.nextToSend := by
  unfold SenderD.outstanding; rw [sub_zero_iff]; exact eq_comm

theorem insideWindow_eq_true (r : SenderD) (q) : r.insideWindow q = true ↔ (q - r.base).toNat < (r.nextToSend - r.base).toNat := by
  unfold SenderD.insideWindow SenderD.outstanding; exact decide_eq_true_iff

theorem insideWindow_eq_false (r : SenderD) (q) : r.insideWindow q = false ↔ (r.nextToSend - r.base).toNat ≤ (q - r.base).toNat := by
  unfold SenderD.insideWindow SenderD.outstanding; rw [decide_eq_false_iff_not]; exact Nat.not_lt

end Sys2Proof.Machine
end

