-- ==== Sys2Proof/Laws/Pending.lean ====
section
/-! SUPPORT. Laws/Pending.lean: the pending sends of R27: the keys of the buffer, none after SHUTDOWN (R290), and in a sound
running sender none exactly when the window is empty (R226 (2), (5)). -/

namespace Sys2Proof.Machine

@[simp] theorem sendPending_senderD (r : SenderD) : (Regs.senderD r).sendPending = !r.pendingSends.isEmpty := rfl

theorem sendPending_senderD_eq_false (r : SenderD) : (Regs.senderD r).sendPending = false ↔ r.buffer = [] := by
  cases h : r.buffer <;> simp [SenderD.pendingSends, h]

/-- A sequence is pending exactly when the buffer has a frame for it. -/
theorem mem_pendingSends (r : SenderD) (q : Seq32) : q ∈ r.pendingSends ↔ (r.buffer.read q).isSome = true := by
  unfold SenderD.pendingSends Memory.read
  induction r.buffer with
  | nil => simp
  | cons e m ih =>
    obtain ⟨k, f⟩ := e
    by_cases h : q = k
    · subst h; simp
    · have hk : (q == k) = false := beq_eq_false_iff_ne.mpr h
      rw [List.map_cons, List.mem_cons, List.lookup_cons, hk, ih]
      exact or_iff_right h

theorem shutdownRegs_senderD_sendPending (u : Nat) (r : SenderD) :
    (shutdownRegs u (.senderD r)).sendPending = false := rfl

/-- While a sound variant-D sender runs, nothing is pending exactly when nothing is outstanding. -/
theorem sendPending_eq_false_of_sound {s : State} {r : SenderD} (hs : s.Sound) (hr : s.regs = .senderD r)
    (hrun : s.running = true) : s.regs.sendPending = false ↔ r.outstanding = 0 := by
  have hw : r.BufferIsWindow s.params.mss := by
    have h := hs
    simp only [State.Sound, hr] at h
    exact h.2.2.2.2.2.2 hrun
  rw [hr, sendPending_senderD_eq_false]
  constructor
  · intro hb
    have h := hw r.base
    simp only [hb, Memory.read, List.lookup_nil, insideWindow_eq_false] at h
    unfold SenderD.outstanding
    have : (r.base - r.base).toNat = 0 := by simp
    omega
  · intro ho
    cases hb : r.buffer with
    | nil => rfl
    | cons e m =>
      have hread : r.buffer.read e.1 = some e.2 := by
        obtain ⟨k, f⟩ := e
        simp [hb, Memory.read]
      have h := hw e.1
      rw [hread] at h
      have h := (insideWindow_eq_true r e.1).mp h.1
      unfold SenderD.outstanding at ho
      omega

end Sys2Proof.Machine
end

