-- ==== Sys2Proof/Laws/PerInstr.lean ====
section
/-! SUPPORT. Laws/PerInstr.lean: the family TableRow: every instruction's word has the bits its row of spec/opcode_table.json
fixes (30_encoding.md R98, R114, R116), one lemma per constructor. -/

namespace Sys2Proof.Laws

/-- The bits a row of the table fixes, as (hi, lo, value). -/
def fixedBits : Instr → List (Nat × Nat × Nat)
  | .aData .. => [(23, 16, 0)]
  | .aAck .. => [(23, 16, 1)]
  | .aNak .. => [(23, 16, 2)]
  | .bData .. => [(31, 24, 0)]
  | .bAck .. => [(31, 24, 1)]
  | .bNak .. => [(31, 24, 2)]
  | .cData .. => [(31, 24, 0)]
  | .cAck .. => [(31, 24, 1)]
  | .cNak .. => [(31, 24, 2)]
  | .dData .. => [(55, 48, 0)]
  | .dAck .. => [(55, 48, 1)]
  | .dNak .. => [(55, 48, 2)]
  | .csum16 .. => [(3, 0, 0x0)]
  | .seqEnc .. => [(3, 0, 0x1)]
  | .seqDec .. => [(3, 0, 0x2)]
  | .encode .. => [(3, 0, 0x3)]
  | .decode .. => [(3, 0, 0x4)]
  | .saSend .. => [(6, 0, 0b0000101)]
  | .sbSend .. => [(6, 0, 0b0010101)]
  | .scSend .. => [(6, 0, 0b0100101)]
  | .sdSend .. => [(6, 0, 0b0110101)]
  | .saRx .. => [(6, 0, 0b0000110)]
  | .raRx .. => [(6, 0, 0b1000110)]
  | .sbRx .. => [(6, 0, 0b0010110)]
  | .rbRx .. => [(6, 0, 0b1010110)]
  | .scRx .. => [(6, 0, 0b0100110)]
  | .rcRx .. => [(6, 0, 0b1100110)]
  | .sdRx .. => [(6, 0, 0b0110110)]
  | .rdRx .. => [(6, 0, 0b1110110)]
  | .scTimeout => [(6, 0, 0b0100111)]
  | .sdTimeout => [(6, 0, 0b0110111)]
  | .tmrArm .. => [(6, 5, 0b01), (3, 0, 0x8)]
  | .tmrCancel .. => [(6, 5, 0b01), (3, 0, 0x9)]
  | .tmrRestart .. => [(6, 5, 0b01), (3, 0, 0x8)]
  | .tmrTick .. => [(6, 5, 0b01), (3, 0, 0xA)]
  | .reset .. => [(3, 0, 0xB)]
  | .shutdown .. => [(3, 0, 0xC)]

/-- `w[hi:lo]` (00_scope.md R15). -/
def bits (w hi lo : Nat) : Nat := w / 2 ^ lo % 2 ^ (hi + 1 - lo)

/-- The word the table speaks of: a packet's header as one big-endian number (R90 to R92), an operation's key byte. -/
def rowWord (i : Instr) : Nat :=
  match encode i with
  | .wire f => ube (memRead f 0 (headerSize i.layout))
  | .op bs => ube (memRead bs 0 1)

namespace TableRow

/-- The word of a well-formed instruction has its row's fixed bits. -/
def Statement (i : Instr) : Prop :=
  i.wellFormed = true → ∀ b ∈ fixedBits i, bits (rowWord i) b.1 b.2.1 = b.2.2

theorem header_wireA (k : Byte) (ck : Word16) (p : Frame) :
    ube (memRead (wireA k ck p) 0 3) = k.toNat * 2 ^ 16 + ck.toNat := by
  have e : memRead (wireA k ck p) 0 3 = k :: be 2 ck.toNat := by simp [memRead, wireA, be]
  rw [e, ube_cons, ube_be, be_length, Nat.mod_eq_of_lt (Nat.lt_of_lt_of_le ck.isLt (by decide))] <;> rfl

theorem header_wireBC (k q : Byte) (ck : Word16) (p : Frame) :
    ube (memRead (wireBC k q ck p) 0 4) = k.toNat * 2 ^ 24 + (q.toNat * 2 ^ 16 + ck.toNat) := by
  have e : memRead (wireBC k q ck p) 0 4 = k :: q :: be 2 ck.toNat := by simp [memRead, wireBC, be]
  rw [e, ube_cons, ube_cons, ube_be, be_length, List.length_cons, be_length,
    Nat.mod_eq_of_lt (Nat.lt_of_lt_of_le ck.isLt (by decide))] <;> rfl

theorem header_wireD (k : Byte) (q : Seq32) (ck : Word16) (p : Frame) :
    ube (memRead (wireD k q ck p) 0 7) = k.toNat * 2 ^ 48 + (q.toNat * 2 ^ 16 + ck.toNat) := by
  have e : memRead (wireD k q ck p) 0 7 = k :: (be 4 q.toNat ++ be 2 ck.toNat) := by simp [memRead, wireD, be]
  rw [e, ube_cons, ube_append, ube_be, ube_be, be_length, List.length_append, be_length, be_length,
    Nat.mod_eq_of_lt (Nat.lt_of_lt_of_le ck.isLt (by decide)), Nat.mod_eq_of_lt (Nat.lt_of_lt_of_le q.isLt (by decide))] <;> rfl

theorem key_word (k : Byte) (rest : Frame) : ube (memRead (k :: rest) 0 1) = k.toNat := by
  simp [memRead, ube_cons]

theorem aData (ck : Word16) (p : Frame) : Statement (.aData ck p) := by
  intro _ b hb
  obtain rfl := List.mem_singleton.mp hb
  have h : rowWord (.aData ck p) = 0 * 2 ^ 16 + ck.toNat := header_wireA 0 ck p
  have := ck.isLt
  simp only [bits, h]; omega

theorem aAck (ck : Word16) (p : Frame) : Statement (.aAck ck p) := by
  intro _ b hb
  obtain rfl := List.mem_singleton.mp hb
  have h : rowWord (.aAck ck p) = 1 * 2 ^ 16 + ck.toNat := header_wireA 1 ck p
  have := ck.isLt
  simp only [bits, h]; omega

theorem aNak (ck : Word16) (p : Frame) : Statement (.aNak ck p) := by
  intro _ b hb
  obtain rfl := List.mem_singleton.mp hb
  have h : rowWord (.aNak ck p) = 2 * 2 ^ 16 + ck.toNat := header_wireA 2 ck p
  have := ck.isLt
  simp only [bits, h]; omega

theorem bData (q : Byte) (ck : Word16) (p : Frame) : Statement (.bData q ck p) := by
  intro _ b hb
  obtain rfl := List.mem_singleton.mp hb
  have h : rowWord (.bData q ck p) = 0 * 2 ^ 24 + (q.toNat * 2 ^ 16 + ck.toNat) := header_wireBC 0 q ck p
  have := ck.isLt
  have := q.isLt
  simp only [bits, h]; omega

theorem bAck (q : Byte) (ck : Word16) (p : Frame) : Statement (.bAck q ck p) := by
  intro _ b hb
  obtain rfl := List.mem_singleton.mp hb
  have h : rowWord (.bAck q ck p) = 1 * 2 ^ 24 + (q.toNat * 2 ^ 16 + ck.toNat) := header_wireBC 1 q ck p
  have := ck.isLt
  have := q.isLt
  simp only [bits, h]; omega

theorem bNak (q : Byte) (ck : Word16) (p : Frame) : Statement (.bNak q ck p) := by
  intro _ b hb
  obtain rfl := List.mem_singleton.mp hb
  have h : rowWord (.bNak q ck p) = 2 * 2 ^ 24 + (q.toNat * 2 ^ 16 + ck.toNat) := header_wireBC 2 q ck p
  have := ck.isLt
  have := q.isLt
  simp only [bits, h]; omega

theorem cData (q : Byte) (ck : Word16) (p : Frame) : Statement (.cData q ck p) := by
  intro _ b hb
  obtain rfl := List.mem_singleton.mp hb
  have h : rowWord (.cData q ck p) = 0 * 2 ^ 24 + (q.toNat * 2 ^ 16 + ck.toNat) := header_wireBC 0 q ck p
  have := ck.isLt
  have := q.isLt
  simp only [bits, h]; omega

theorem cAck (q : Byte) (ck : Word16) (p : Frame) : Statement (.cAck q ck p) := by
  intro _ b hb
  obtain rfl := List.mem_singleton.mp hb
  have h : rowWord (.cAck q ck p) = 1 * 2 ^ 24 + (q.toNat * 2 ^ 16 + ck.toNat) := header_wireBC 1 q ck p
  have := ck.isLt
  have := q.isLt
  simp only [bits, h]; omega

theorem cNak (q : Byte) (ck : Word16) (p : Frame) : Statement (.cNak q ck p) := by
  intro _ b hb
  obtain rfl := List.mem_singleton.mp hb
  have h : rowWord (.cNak q ck p) = 2 * 2 ^ 24 + (q.toNat * 2 ^ 16 + ck.toNat) := header_wireBC 2 q ck p
  have := ck.isLt
  have := q.isLt
  simp only [bits, h]; omega

theorem dData (q : Seq32) (ck : Word16) (p : Frame) : Statement (.dData q ck p) := by
  intro _ b hb
  obtain rfl := List.mem_singleton.mp hb
  have h : rowWord (.dData q ck p) = 0 * 2 ^ 48 + (q.toNat * 2 ^ 16 + ck.toNat) := header_wireD 0 q ck p
  have := ck.isLt
  have := q.isLt
  simp only [bits, h]; omega

theorem dAck (q : Seq32) (ck : Word16) (p : Frame) : Statement (.dAck q ck p) := by
  intro _ b hb
  obtain rfl := List.mem_singleton.mp hb
  have h : rowWord (.dAck q ck p) = 1 * 2 ^ 48 + (q.toNat * 2 ^ 16 + ck.toNat) := header_wireD 1 q ck p
  have := ck.isLt
  have := q.isLt
  simp only [bits, h]; omega

theorem dNak (q : Seq32) (ck : Word16) (p : Frame) : Statement (.dNak q ck p) := by
  intro _ b hb
  obtain rfl := List.mem_singleton.mp hb
  have h : rowWord (.dNak q ck p) = 2 * 2 ^ 48 + (q.toNat * 2 ^ 16 + ck.toNat) := header_wireD 2 q ck p
  have := ck.isLt
  have := q.isLt
  simp only [bits, h]; omega

theorem csum16 (r : Role) (v : Variant) (bs : Frame) : Statement (.csum16 r v bs) := by
  intro _ b hb
  obtain rfl := List.mem_singleton.mp hb
  rw [show rowWord (.csum16 r v bs) = (opKey r v 0x0).toNat from key_word _ _]
  cases r <;> cases v <;> rfl

theorem seqEnc (r : Role) (v : Variant) (q : Seq32) : Statement (.seqEnc r v q) := by
  intro _ b hb
  obtain rfl := List.mem_singleton.mp hb
  rw [show rowWord (.seqEnc r v q) = (opKey r v 0x1).toNat from key_word _ _]
  cases r <;> cases v <;> rfl

theorem seqDec (r : Role) (v : Variant) (sb : Frame) : Statement (.seqDec r v sb) := by
  intro _ b hb
  obtain rfl := List.mem_singleton.mp hb
  rw [show rowWord (.seqDec r v sb) = (opKey r v 0x2).toNat from key_word _ _]
  cases r <;> cases v <;> rfl

theorem encode (r : Role) (v : Variant) (k : Byte) (q : Seq32) (p : Frame) : Statement (.encode r v k q p) := by
  intro _ b hb
  obtain rfl := List.mem_singleton.mp hb
  rw [show rowWord (.encode r v k q p) = (opKey r v 0x3).toNat from key_word _ _]
  cases r <;> cases v <;> rfl

theorem decode (r : Role) (v : Variant) (f : Frame) : Statement (.decode r v f) := by
  intro _ b hb
  obtain rfl := List.mem_singleton.mp hb
  rw [show rowWord (.decode r v f) = (opKey r v 0x4).toNat from key_word _ _]
  cases r <;> cases v <;> rfl

theorem saSend (bs : Frame) : Statement (.saSend bs) := by
  intro _ b hb
  obtain rfl := List.mem_singleton.mp hb
  rw [show rowWord (.saSend bs) = (opKey .sender .a 0x5).toNat from key_word _ _]
  rfl

theorem sbSend (bs : Frame) : Statement (.sbSend bs) := by
  intro _ b hb
  obtain rfl := List.mem_singleton.mp hb
  rw [show rowWord (.sbSend bs) = (opKey .sender .b 0x5).toNat from key_word _ _]
  rfl

theorem scSend (bs : Frame) : Statement (.scSend bs) := by
  intro _ b hb
  obtain rfl := List.mem_singleton.mp hb
  rw [show rowWord (.scSend bs) = (opKey .sender .c 0x5).toNat from key_word _ _]
  rfl

theorem sdSend (bs : Frame) : Statement (.sdSend bs) := by
  intro _ b hb
  obtain rfl := List.mem_singleton.mp hb
  rw [show rowWord (.sdSend bs) = (opKey .sender .d 0x5).toNat from key_word _ _]
  rfl

theorem saRx (bs : Frame) : Statement (.saRx bs) := by
  intro _ b hb
  obtain rfl := List.mem_singleton.mp hb
  rw [show rowWord (.saRx bs) = (opKey .sender .a 0x6).toNat from key_word _ _]
  rfl

theorem raRx (bs : Frame) : Statement (.raRx bs) := by
  intro _ b hb
  obtain rfl := List.mem_singleton.mp hb
  rw [show rowWord (.raRx bs) = (opKey .receiver .a 0x6).toNat from key_word _ _]
  rfl

theorem sbRx (bs : Frame) : Statement (.sbRx bs) := by
  intro _ b hb
  obtain rfl := List.mem_singleton.mp hb
  rw [show rowWord (.sbRx bs) = (opKey .sender .b 0x6).toNat from key_word _ _]
  rfl

theorem rbRx (bs : Frame) : Statement (.rbRx bs) := by
  intro _ b hb
  obtain rfl := List.mem_singleton.mp hb
  rw [show rowWord (.rbRx bs) = (opKey .receiver .b 0x6).toNat from key_word _ _]
  rfl

theorem scRx (bs : Frame) : Statement (.scRx bs) := by
  intro _ b hb
  obtain rfl := List.mem_singleton.mp hb
  rw [show rowWord (.scRx bs) = (opKey .sender .c 0x6).toNat from key_word _ _]
  rfl

theorem rcRx (bs : Frame) : Statement (.rcRx bs) := by
  intro _ b hb
  obtain rfl := List.mem_singleton.mp hb
  rw [show rowWord (.rcRx bs) = (opKey .receiver .c 0x6).toNat from key_word _ _]
  rfl

theorem sdRx (bs : Frame) : Statement (.sdRx bs) := by
  intro _ b hb
  obtain rfl := List.mem_singleton.mp hb
  rw [show rowWord (.sdRx bs) = (opKey .sender .d 0x6).toNat from key_word _ _]
  rfl

theorem rdRx (bs : Frame) : Statement (.rdRx bs) := by
  intro _ b hb
  obtain rfl := List.mem_singleton.mp hb
  rw [show rowWord (.rdRx bs) = (opKey .receiver .d 0x6).toNat from key_word _ _]
  rfl

theorem scTimeout : Statement .scTimeout := by
  intro _ b hb
  obtain rfl := List.mem_singleton.mp hb
  rfl

theorem sdTimeout : Statement .sdTimeout := by
  intro _ b hb
  obtain rfl := List.mem_singleton.mp hb
  rfl

theorem tmrArm (v : TimedVariant) : Statement (.tmrArm v) := by
  intro _ b hb
  rcases List.mem_cons.mp hb with rfl | hb
  · cases v <;> rfl
  · obtain rfl := List.mem_singleton.mp hb
    cases v <;> rfl

theorem tmrCancel (v : TimedVariant) : Statement (.tmrCancel v) := by
  intro _ b hb
  rcases List.mem_cons.mp hb with rfl | hb
  · cases v <;> rfl
  · obtain rfl := List.mem_singleton.mp hb
    cases v <;> rfl

theorem tmrRestart (v : TimedVariant) : Statement (.tmrRestart v) := by
  intro _ b hb
  rcases List.mem_cons.mp hb with rfl | hb
  · cases v <;> rfl
  · obtain rfl := List.mem_singleton.mp hb
    cases v <;> rfl

theorem tmrTick (v : TimedVariant) : Statement (.tmrTick v) := by
  intro _ b hb
  rcases List.mem_cons.mp hb with rfl | hb
  · cases v <;> rfl
  · obtain rfl := List.mem_singleton.mp hb
    cases v <;> rfl

theorem reset (cfg : Cfg) : Statement (.reset cfg) := by
  intro _ b hb
  obtain rfl := List.mem_singleton.mp hb
  rw [show rowWord (.reset cfg) = (opKey cfg.role cfg.variant 0xB).toNat from key_word _ _]
  cases cfg.role <;> cases cfg.variant <;> rfl

theorem shutdown (r : Role) (v : Variant) : Statement (.shutdown r v) := by
  intro _ b hb
  obtain rfl := List.mem_singleton.mp hb
  rw [show rowWord (.shutdown r v) = (opKey r v 0xC).toNat from key_word _ _]
  cases r <;> cases v <;> rfl

end TableRow

end Sys2Proof.Laws
end

