-- ==== Sys2Proof/Tests/Slice0.lean ====
section
/-! SUPPORT. Tests/Slice0.lean: the model's own tests. Expected results are the vectors of 95_test_vectors.md (named T-..) or
the rule named beside them; then, for every statement with hypotheses, a concrete state and operands that meet them. -/

namespace Sys2Proof.Tests

open Sys2Proof Sys2Proof.Machine

/-! ### Helpers -/

/-- "msg_0", "msg_1" of 95_test_vectors.md. -/
def msg0 : Frame := [0x6D, 0x73, 0x67, 0x5F, 0x30]
def msg1 : Frame := [0x6D, 0x73, 0x67, 0x5F, 0x31]

/-- An instance with MSS = 8, N = 4, TIMEOUT_TICKS = 5 and the given registers. -/
def node (r : Regs) : State :=
  { State.reset with params := { mss := 8, n := 4, timeoutTicks := 5 }, regs := r }

/-- What the decoder reads. -/
def read (v : Variant) (slot : Slot) : Option Instr := (decode v slot).toOption

/-- Why it rejects. -/
def rejection (v : Variant) (slot : Slot) : Option DecodeError :=
  match decode v slot with
  | .ok _ => none
  | .error e => some e

/-- Outputs and registers of a next state. -/
def seen : Result → Option (List Output × Regs)
  | .next t => some (t.outputs, t.regs)
  | .fault _ => none
  | .refused _ => none

/-- Outputs of a next state. -/
def emitted : Result → Option (List Output)
  | .next t => some t.outputs
  | .fault _ => none
  | .refused _ => none

/-- Registers of a next state. -/
def regsAfter : Result → Option Regs
  | .next t => some t.regs
  | .fault _ => none
  | .refused _ => none

/-- The codec function's return value. -/
def returned : Result → Option OpResult
  | .next t => some t.result
  | .fault _ => none
  | .refused _ => none

/-- The refusal, if the outcome is one. -/
def refusal : Result → Option Refusal
  | .next _ => none
  | .fault _ => none
  | .refused e => some e

/-- `armed` and `expired` of a next state's timer; its `remaining` may be a free value. -/
def flagsAfter : Result → Option (Bool × Bool)
  | .next t =>
    match t.regs with
    | .senderC r => some (r.timer.armed, r.timer.expired)
    | .senderD r => some (r.timer.armed, r.timer.expired)
    | _ => none
  | .fault _ => none
  | .refused _ => none

def idle : Timer := { armed := false, expired := false, remaining := 0 }
def counting (k : Nat) : Timer := { armed := true, expired := false, remaining := k }
def expiredTimer : Timer := { armed := false, expired := true, remaining := 0 }

def waitA : SenderA := { phase := .awaitingResponse, lastPacket := [0x00, 0xFE, 0x29] ++ msg0 }
def waitB : SenderB := { phase := .waitAck, currentSequence := 0, lastPacket := [0x00, 0x00, 0xFE, 0x29] ++ msg0 }
def waitC (c : BitVec 8) (tm : Timer) : SenderC :=
  { phase := .waitAck, currentSequence := c, lastPacket := [0x00, 0x00, 0xFE, 0x29] ++ msg0, timer := tm }
def readyC (c : BitVec 8) : SenderC := { phase := .ready, currentSequence := c, lastPacket := [], timer := idle }

/-- Empty DATA frames of D: sequences 0, 1, 2 by T-ENC48, T-ENC49 and R140, 0xFFFFFFFF by T-ENC52. -/
def d0 : Frame := [0x00, 0x00, 0x00, 0x00, 0x00, 0xFF, 0xFF]
def d1 : Frame := [0x00, 0x00, 0x00, 0x00, 0x01, 0xFF, 0xFE]
def d2 : Frame := [0x00, 0x00, 0x00, 0x00, 0x02, 0xFF, 0xFD]
def dMax : Frame := [0x00, 0xFF, 0xFF, 0xFF, 0xFF, 0xFC, 0x03]

def windowD (tm : Timer) : SenderD := { base := 0, nextToSend := 3, buffer := [(0, d0), (1, d1), (2, d2)], timer := tm }
def wrapD (tm : Timer) : SenderD := { base := 0xFFFFFFFF, nextToSend := 1, buffer := [(0, d0), (0xFFFFFFFF, dMax)], timer := tm }
def idleD : SenderD := { base := 3, nextToSend := 3, buffer := [], timer := idle }

/-! ### Well-formedness: each check refuses an ill-formed term -/

theorem test_ill_formed_seqEnc_for_a : Instr.wellFormed (.seqEnc .sender .a 1) = false := by decide
theorem test_ill_formed_encode_for_a : Instr.wellFormed (.encode .sender .a 0 1 []) = false := by decide
theorem test_ill_formed_seqDec_widths :
    Instr.wellFormed (.seqDec .sender .a [0]) = false ∧ Instr.wellFormed (.seqDec .sender .b []) = false ∧
      Instr.wellFormed (.seqDec .sender .c [0, 0]) = false ∧ Instr.wellFormed (.seqDec .sender .d [0, 0, 0]) = false := by
  decide
theorem test_ill_formed_reset_mss :
    Instr.wellFormed (.reset { variant := .d, role := .sender, mss := 2 ^ 64, n := 1, timeoutTicks := 1 }) = false := by decide
theorem test_ill_formed_reset_n :
    Instr.wellFormed (.reset { variant := .d, role := .sender, mss := 8, n := 2 ^ 32, timeoutTicks := 1 }) = false := by decide
theorem test_ill_formed_reset_ticks :
    Instr.wellFormed (.reset { variant := .d, role := .sender, mss := 8, n := 1, timeoutTicks := 2 ^ 64 }) = false := by decide

/-! ### Decoding words written out from the spec -/

/-- T-ENC30, T-ENC1, T-ENC2. -/
theorem test_decode_packets_a :
    decodeTableWord 24 0x00FFFF = some (.aData 0xFFFF []) ∧ decodeTableWord 24 0x01FFFE = some (.aAck 0xFFFE []) ∧
      decodeTableWord 24 0x02FFFD = some (.aNak 0xFFFD []) := by decide
/-- T-ENC37, T-ENC4, T-ENC5. -/
theorem test_decode_packets_b :
    decodeTableWord 32 0x0001FFFE = some (.bData 1 0xFFFE []) ∧ decodeTableWord 32 0x0101FFFD = some (.bAck 1 0xFFFD []) ∧
      decodeTableWord 32 0x0200FFFD = some (.bNak 0 0xFFFD []) := by decide
/-- T-ENC46, T-ENC11, T-ENC12. -/
theorem test_decode_packets_c :
    read .c (.wire [0x00, 0xFF, 0xFF, 0x00]) = some (.cData 0xFF 0xFF00 []) ∧
      read .c (.wire [0x01, 0xFF, 0xFE, 0xFF]) = some (.cAck 0xFF 0xFEFF []) ∧
      read .c (.wire [0x02, 0xFF, 0xFE, 0xFE]) = some (.cNak 0xFF 0xFEFE []) := by decide
/-- T-ENC53, T-ENC19, T-ENC23. -/
theorem test_decode_packets_d :
    read .d (.wire ([0x00, 0x00, 0x00, 0x00, 0x00, 0xFE, 0x29] ++ msg0)) = some (.dData 0 0xFE29 msg0) ∧
      decodeTableWord 56 0x0101020304FFF4 = some (.dAck 0x01020304 0xFFF4 []) ∧
      decodeTableWord 56 0x0200000000FFFD = some (.dNak 0 0xFFFD []) := by decide
/-- Keys `r vv oooo` of R114, R116; operands as log entry 10 lays them. -/
theorem test_decode_codec_keys :
    read .a (.op [0b1000000, 0x01]) = some (.csum16 .receiver .a [0x01]) ∧
      read .a (.op [0b0110001, 0x01, 0x02, 0x03, 0x04]) = some (.seqEnc .sender .d 0x01020304) ∧
      read .a (.op [0b0010010, 0xFF]) = some (.seqDec .sender .b [0xFF]) ∧
      read .a (.op [0b1100011, 0x01, 0x00, 0x00, 0x00, 0x07, 0x41]) = some (.encode .receiver .c 1 7 [0x41]) ∧
      read .a (.op [0b1110100, 0x00]) = some (.decode .receiver .d [0x00]) := by decide
theorem test_decode_send_keys :
    read .a (.op [0b0000101, 0x78]) = some (.saSend [0x78]) ∧ read .a (.op [0b0010101, 0x78]) = some (.sbSend [0x78]) ∧
      read .a (.op [0b0100101]) = some (.scSend []) ∧ read .a (.op [0b0110101]) = some (.sdSend []) := by decide
theorem test_decode_rx_keys :
    decodeTableWord 8 0b0000110 = some (.saRx []) ∧ decodeTableWord 8 0b1000110 = some (.raRx []) ∧
      decodeTableWord 8 0b0010110 = some (.sbRx []) ∧ decodeTableWord 8 0b1010110 = some (.rbRx []) ∧
      decodeTableWord 8 0b0100110 = some (.scRx []) ∧ decodeTableWord 8 0b1100110 = some (.rcRx []) ∧
      decodeTableWord 8 0b0110110 = some (.sdRx []) ∧ decodeTableWord 8 0b1110110 = some (.rdRx []) := by decide
/-- TMR.RESTART has TMR.ARM's word (R122). -/
theorem test_decode_timer_keys :
    decodeTableWord 8 0b0100111 = some .scTimeout ∧ decodeTableWord 8 0b0110111 = some .sdTimeout ∧
      decodeTableWord 8 0b0111000 = some (.tmrArm .d) ∧ decodeTableWord 8 0b0101001 = some (.tmrCancel .c) ∧
      decodeTableWord 8 0b0111010 = some (.tmrTick .d) ∧
      Instr.canonical (.tmrRestart .d) = .tmrArm .d ∧ encode (.tmrRestart .d) = .op [0b0111000] := by decide
theorem test_decode_host_keys :
    read .a (.op [0b0111011, 0, 0, 0, 0, 0, 0, 2, 0, 0, 0, 0, 4, 0, 0, 0, 0, 0, 0, 0, 5]) =
        some (.reset { variant := .d, role := .sender, mss := 512, n := 4, timeoutTicks := 5 }) ∧
      decodeTableWord 8 0b1011100 = some (.shutdown .receiver .b) := by decide

/-- The decoder rejects by name (R101, R104, R114, R116, R282 (c), (e)). -/
theorem test_decode_rejections :
    rejection .a (.wire [0x00, 0xFF]) = some (.shortFrame 2) ∧ rejection .a (.wire [0x03, 0xFF, 0xFC]) = some (.unassignedKind 3) ∧
      rejection .a (.op []) = some .emptySlot ∧ rejection .a (.op [0x80]) = some .keyTooWide ∧
      rejection .a (.op [0b0001101]) = some (.unassignedOperation 0xD) ∧
      rejection .a (.op [0b1010101, 0x78]) = some (.noSuchRow .receiver .b 0x5) ∧
      rejection .a (.op [0b0011010]) = some (.noSuchRow .sender .b 0xA) ∧
      rejection .a (.op [0b1101010]) = some (.noSuchRow .receiver .c 0xA) ∧
      rejection .a (.op [0b0101010, 0]) = some (.operandLength 1) ∧
      rejection .a (.op [0b0000001, 0, 0, 0, 1]) = some .sequenceForVariantA := by decide

/-- A slot of the port is run by the step (T-A1), and a table word placed after reset is the next instruction. -/
theorem test_step_runs_the_port :
    emitted (step { node (.senderA { phase := .idle, lastPacket := [] }) with inbox := [.op (0b0000101 :: msg0)] }) =
      some [.tx [0x00, 0xFE, 0x29, 0x6D, 0x73, 0x67, 0x5F, 0x30]] := by decide
theorem test_step_runs_a_placed_word :
    emitted (step (State.reset.withFetchWord 8 0b0110101)) = some [.tx d0] := by decide

/-! ### The codec -/

/-- T-CS6, T-CS7. -/
theorem test_csum16 :
    returned (exec (.csum16 .sender .a [0x80, 0x80]) State.reset) = some (.checksum 0xFEFF) ∧
      returned (exec (.csum16 .sender .a (0x00 :: msg0)) State.reset) = some (.checksum 0xFE29) := by decide
set_option maxRecDepth 4000 in
/-- T-CS17: carries out of bit 15 are dropped. -/
theorem test_csum16_wraps : csum16 (0x00 :: List.replicate 258 0xFF) = 0xFF01 := by decide
/-- T-SQ3, T-SQ5, T-SQ7. -/
theorem test_seqEnc :
    refusal (exec (.seqEnc .sender .b 2) State.reset) = some .sequenceOutsideDomain ∧
      refusal (exec (.seqEnc .sender .c 256) State.reset) = some .sequenceOutsideDomain ∧
      returned (exec (.seqEnc .sender .d 0x01020304) State.reset) = some (.bytes [0x01, 0x02, 0x03, 0x04]) := by decide
/-- T-SQ9, T-SQ10, T-SQ12. -/
theorem test_seqDec :
    returned (exec (.seqDec .sender .a []) State.reset) = some (.sequence none) ∧
      returned (exec (.seqDec .sender .b [0xFF]) State.reset) = some (.sequence (some 255)) ∧
      returned (exec (.seqDec .sender .d [0x00, 0x00, 0x05, 0x00]) State.reset) = some (.sequence (some 1280)) := by decide
/-- T-ENC38, T-ENC60. -/
theorem test_encode :
    returned (exec (.encode .sender .b 0 0 msg0) State.reset) = some (.bytes ([0x00, 0x00, 0xFE, 0x29] ++ msg0)) ∧
      returned (exec (.encode .sender .d 0 0xFFFFFFFF msg0) State.reset) =
        some (.bytes ([0x00, 0xFF, 0xFF, 0xFF, 0xFF, 0xFA, 0x2D] ++ msg0)) := by decide
/-- T-ENC70, T-ENC71, T-ENC72. -/
theorem test_encode_refuses :
    refusal (exec (.encode .sender .a 3 0 []) State.reset) = some .kindOutsideDomain ∧
      refusal (exec (.encode .sender .a 0 0 (List.replicate 9 0)) (node .receiverA)) = some .payloadTooLong ∧
      refusal (exec (.encode .sender .b 0 2 []) State.reset) = some .sequenceOutsideDomain := by decide
/-- T-DEC7, T-DEC8, T-DEC25. -/
theorem test_decode :
    returned (exec (.decode .sender .a [0x00, 0x00, 0xFF, 0xFF]) State.reset) =
        some (.packet { kind := 0, seq := none, checksumOk := false, payload := [0xFF] }) ∧
      emitted (exec (.decode .sender .d [0x00, 0x00, 0x00, 0x00, 0x00, 0xFF]) State.reset) = some [.framingError 6] ∧
      returned (exec (.decode .sender .b [0x01, 0x02, 0xFF, 0xFC]) State.reset) =
        some (.packet { kind := 1, seq := some 2, checksumOk := true, payload := [] }) := by decide

/-! ### Variant A -/

/-- T-A1, T-A3, T-R7. -/
theorem test_saSend :
    seen (exec (.saSend msg0) (node (.senderA { phase := .idle, lastPacket := [] }))) =
        some ([.tx ([0x00, 0xFE, 0x29] ++ msg0)], .senderA waitA) ∧
      seen (exec (.saSend [0x78]) (node (.senderA waitA))) = some ([], .senderA waitA) ∧
      refusal (exec (.saSend (List.replicate 9 0)) (node (.senderA { phase := .idle, lastPacket := [] }))) =
        some .payloadTooLong := by decide
/-- T-A4, T-A5, T-A6, T-A9, T-A11. -/
theorem test_saRx :
    emitted (exec (.saRx [0x01, 0xFF, 0xFE]) (node (.senderA { phase := .idle, lastPacket := [] }))) = some [] ∧
      emitted (exec (.saRx [0x01, 0xFF]) (node (.senderA waitA))) = some [.framingError 2] ∧
      seen (exec (.saRx [0x01, 0xFF, 0xFF]) (node (.senderA waitA))) =
        some ([.tx ([0x00, 0xFE, 0x29] ++ msg0)], .senderA waitA) ∧
      seen (exec (.saRx [0x01, 0xFF, 0xFE, 0x00]) (node (.senderA waitA))) =
        some ([.done none], .senderA { waitA with phase := .idle }) ∧
      emitted (exec (.saRx [0x03, 0xFF, 0xFC]) (node (.senderA waitA))) = some [.tx ([0x00, 0xFE, 0x29] ++ msg0)] := by decide
/-- U4: DISCARD. -/
theorem test_saRx_discards_unrecognized :
    emitted (exec (.saRx [0x03, 0xFF, 0xFC]) { node (.senderA waitA) with saUnrecognized := .discard }) = some [] := by decide
/-- T-A12, T-A13, T-A14, T-A17. -/
theorem test_raRx :
    emitted (exec (.raRx [0x00, 0xFF]) (node .receiverA)) = some [.framingError 2] ∧
      emitted (exec (.raRx ([0x00, 0xFE, 0x29] ++ msg1)) (node .receiverA)) = some [.tx [0x02, 0xFF, 0xFD]] ∧
      emitted (exec (.raRx ([0x00, 0xFE, 0x29] ++ msg0)) (node .receiverA)) =
        some [.deliver msg0, .tx [0x01, 0xFF, 0xFE]] ∧
      emitted (exec (.raRx [0x02, 0xFF, 0xFD]) (node .receiverA)) = some [] := by decide
/-- T-A14, T-A8, T-A7 as packet rows. -/
theorem test_packets_a :
    emitted (exec (.aData 0xFE29 msg0) (node .receiverA)) = some [.deliver msg0, .tx [0x01, 0xFF, 0xFE]] ∧
      emitted (exec (.aAck 0xFFFE []) (node (.senderA waitA))) = some [.done none] ∧
      emitted (exec (.aNak 0xFFFD []) (node (.senderA waitA))) = some [.tx ([0x00, 0xFE, 0x29] ++ msg0)] := by decide

/-! ### Variant B -/

/-- T-B2. -/
theorem test_sbSend :
    seen (exec (.sbSend msg0) (node (.senderB { phase := .ready, currentSequence := 1, lastPacket := [] }))) =
      some ([.tx ([0x00, 0x01, 0xFE, 0x28] ++ msg0)],
        .senderB { phase := .waitAck, currentSequence := 1, lastPacket := [0x00, 0x01, 0xFE, 0x28] ++ msg0 }) := by decide
/-- T-B5 (NAK 1), T-B6, T-B7. -/
theorem test_sbRx :
    seen (exec (.sbRx [0x02, 0x01, 0xFF, 0xFC]) (node (.senderB waitB))) = some ([], .senderB waitB) ∧
      seen (exec (.sbRx [0x01, 0x00, 0xFF, 0xFE]) (node (.senderB waitB))) =
        some ([.done none], .senderB { waitB with phase := .ready, currentSequence := 1 }) ∧
      seen (exec (.sbRx [0x01, 0x00, 0xFF, 0xFF]) (node (.senderB waitB))) = some ([], .senderB waitB) := by decide
/-- T-B8, T-B9. -/
theorem test_sbRx_retransmits :
    emitted (exec (.sbRx [0x02, 0x00, 0xFF, 0xFD]) (node (.senderB waitB))) = some [.tx ([0x00, 0x00, 0xFE, 0x29] ++ msg0)] ∧
      emitted (exec (.sbRx [0x01, 0x02, 0xFF, 0xFC]) (node (.senderB waitB))) =
        some [.tx ([0x00, 0x00, 0xFE, 0x29] ++ msg0)] := by decide
/-- T-B15, T-B18, T-B19, T-B21. -/
theorem test_rbRx :
    seen (exec (.rbRx [0x00, 0x00, 0xFE, 0x29, 0x6D, 0x73, 0x68, 0x5F, 0x30]) (node (.receiverB 1))) =
        some ([.tx [0x02, 0x01, 0xFF, 0xFC]], .receiverB 1) ∧
      seen (exec (.rbRx ([0x00, 0x00, 0xFE, 0x29] ++ msg0)) (node (.receiverB 1))) =
        some ([.tx [0x01, 0x00, 0xFF, 0xFE]], .receiverB 1) ∧
      seen (exec (.rbRx ([0x00, 0x01, 0xFE, 0x28] ++ msg0)) (node (.receiverB 1))) =
        some ([.deliver msg0, .tx [0x01, 0x01, 0xFF, 0xFD]], .receiverB 0) ∧
      seen (exec (.rbRx [0x00, 0x02, 0xFF, 0x85, 0x78]) (node (.receiverB 0))) =
        some ([.tx [0x01, 0x01, 0xFF, 0xFD]], .receiverB 0) := by decide
/-- T-B17, T-B6, T-B8 as packet rows. -/
theorem test_packets_b :
    seen (exec (.bData 0 0xFE29 msg0) (node (.receiverB 0))) =
        some ([.deliver msg0, .tx [0x01, 0x00, 0xFF, 0xFE]], .receiverB 1) ∧
      emitted (exec (.bAck 0 0xFFFE []) (node (.senderB waitB))) = some [.done none] ∧
      emitted (exec (.bNak 0 0xFFFD []) (node (.senderB waitB))) = some [.tx ([0x00, 0x00, 0xFE, 0x29] ++ msg0)] := by decide

/-! ### Variant C -/

/-- T-C2. -/
theorem test_scSend :
    seen (exec (.scSend msg0) (node (.senderC (readyC 255)))) =
      some ([.tx ([0x00, 0xFF, 0xFD, 0x2A] ++ msg0)],
        .senderC { phase := .waitAck, currentSequence := 255, lastPacket := [0x00, 0xFF, 0xFD, 0x2A] ++ msg0,
                   timer := counting 5 }) := by decide
/-- T-C5, T-C6, T-C7: nothing changes, the countdown included. -/
theorem test_scRx_discards :
    seen (exec (.scRx [0x01, 0x00, 0xFF, 0xFF]) (node (.senderC (waitC 0 (counting 3))))) =
        some ([], .senderC (waitC 0 (counting 3))) ∧
      seen (exec (.scRx [0x01, 0xFF, 0xFE, 0xFF]) (node (.senderC (waitC 0 (counting 3))))) =
        some ([], .senderC (waitC 0 (counting 3))) ∧
      seen (exec (.scRx [0x02, 0x00, 0xFF, 0xFD]) (node (.senderC (waitC 0 (counting 3))))) =
        some ([], .senderC (waitC 0 (counting 3))) := by decide
/-- T-C9, T-C10: the pending expiry is dropped. -/
theorem test_scRx_matching_ack :
    emitted (exec (.scRx [0x01, 0xFF, 0xFE, 0xFF]) (node (.senderC (waitC 255 (counting 3))))) = some [.done none] ∧
      flagsAfter (exec (.scRx [0x01, 0x07, 0xFF, 0xF7]) (node (.senderC (waitC 7 expiredTimer)))) = some (false, false) := by
  decide
/-- T-C12, T-T14. -/
theorem test_scTimeout :
    seen (exec .scTimeout (node (.senderC (waitC 0 expiredTimer)))) =
        some ([.tx ([0x00, 0x00, 0xFE, 0x29] ++ msg0)], .senderC (waitC 0 (counting 5))) ∧
      refusal (exec .scTimeout (node (.senderC (waitC 0 (counting 2))))) = some .timeoutNotEnabled := by decide
/-- T-C14, T-C19, T-C20, T-C21. -/
theorem test_rcRx :
    seen (exec (.rcRx [0x00, 0x00, 0xFE, 0x29, 0x6D, 0x73, 0x68, 0x5F, 0x30]) (node (.receiverC 0))) =
        some ([.tx [0x01, 0xFF, 0xFE, 0xFF]], .receiverC 0) ∧
      seen (exec (.rcRx ([0x00, 0xFF, 0xFD, 0x2A] ++ msg0)) (node (.receiverC 255))) =
        some ([.deliver msg0, .tx [0x01, 0xFF, 0xFE, 0xFF]], .receiverC 0) ∧
      seen (exec (.rcRx ([0x00, 0xFF, 0xFD, 0x2A] ++ msg0)) (node (.receiverC 0))) =
        some ([.tx [0x01, 0xFF, 0xFE, 0xFF]], .receiverC 0) ∧
      seen (exec (.rcRx [0x00, 0x09, 0xFF, 0xF6]) (node (.receiverC 5))) =
        some ([.tx [0x01, 0x04, 0xFF, 0xFA]], .receiverC 5) := by decide
/-- T-C17, T-C8, T-C7 as packet rows. -/
theorem test_packets_c :
    seen (exec (.cData 0 0xFE29 msg0) (node (.receiverC 0))) =
        some ([.deliver msg0, .tx [0x01, 0x00, 0xFF, 0xFE]], .receiverC 1) ∧
      emitted (exec (.cAck 0 0xFFFE []) (node (.senderC (waitC 0 (counting 3))))) = some [.done none] ∧
      seen (exec (.cNak 0 0xFFFD []) (node (.senderC (waitC 0 (counting 3))))) =
        some ([], .senderC (waitC 0 (counting 3))) := by decide

/-! ### Variant D -/

/-- T-D1; the held SEND of T-D3 (here with the window of four full at base 0xFFFFFFFF). -/
theorem test_sdSend :
    seen (exec (.sdSend msg0) (node (.senderD { base := 0, nextToSend := 0, buffer := [], timer := idle }))) =
        some ([.tx ([0x00, 0x00, 0x00, 0x00, 0x00, 0xFE, 0x29] ++ msg0)],
          .senderD { base := 0, nextToSend := 1, buffer := [(0, [0x00, 0x00, 0x00, 0x00, 0x00, 0xFE, 0x29] ++ msg0)],
                     timer := counting 5 }) ∧
      emitted (exec (.sdSend msg0) (node (.senderD { base := 0xFFFFFFFF, nextToSend := 3, buffer := [], timer := idle }))) =
        some [] := by decide
/-- T-D2: the running countdown is not touched. -/
theorem test_sdSend_keeps_the_countdown :
    seen (exec (.sdSend []) (node (.senderD { base := 0, nextToSend := 1, buffer := [(0, d0)], timer := counting 2 }))) =
      some ([.tx d1], .senderD { base := 0, nextToSend := 2, buffer := [(0, d0), (1, d1)], timer := counting 2 }) := by decide
/-- T-D7, T-D8, T-D10, T-D11. -/
theorem test_sdRx :
    seen (exec (.sdRx [0x01, 0xFF, 0xFF, 0xFF, 0xFF, 0xFC, 0x02]) (node (.senderD (windowD (counting 2))))) =
        some ([], .senderD (windowD (counting 2))) ∧
      seen (exec (.sdRx [0x01, 0x00, 0x00, 0x00, 0x03, 0xFF, 0xFB]) (node (.senderD (windowD (counting 2))))) =
        some ([], .senderD (windowD (counting 2))) ∧
      seen (exec (.sdRx [0x01, 0x00, 0x00, 0x00, 0x01, 0xFF, 0xFD]) (node (.senderD (windowD (counting 2))))) =
        some ([.done (some 0), .done (some 1)],
          .senderD { base := 2, nextToSend := 3, buffer := [(2, d2)], timer := counting 5 }) ∧
      flagsAfter (exec (.sdRx [0x01, 0x00, 0x00, 0x00, 0x02, 0xFF, 0xFC]) (node (.senderD (windowD (counting 2))))) =
        some (false, false) := by decide
/-- As T-D15: an ACK across the wrap. -/
theorem test_sdRx_across_the_wrap :
    emitted (exec (.sdRx [0x01, 0x00, 0x00, 0x00, 0x00, 0xFF, 0xFE]) (node (.senderD (wrapD (counting 2))))) =
      some [.done (some 0xFFFFFFFF), .done (some 0)] := by decide
/-- T-D18: ascending from base, across the wrap. -/
theorem test_sdTimeout :
    seen (exec .sdTimeout (node (.senderD (wrapD expiredTimer)))) =
      some ([.tx dMax, .tx d0], .senderD (wrapD (counting 5))) := by decide
/-- T-D21, T-D24, T-D25, T-D28. -/
theorem test_rdRx :
    seen (exec (.rdRx [0x00, 0x00, 0x00, 0x00, 0x03, 0xFE, 0x26, 0x6D, 0x73, 0x68, 0x5F, 0x30]) (node (.receiverD 3))) =
        some ([.tx [0x01, 0x00, 0x00, 0x00, 0x02, 0xFF, 0xFC]], .receiverD 3) ∧
      seen (exec (.rdRx ([0x00, 0x00, 0x00, 0x00, 0x00, 0xFE, 0x29] ++ msg0)) (node (.receiverD 1))) =
        some ([.tx [0x01, 0x00, 0x00, 0x00, 0x00, 0xFF, 0xFE]], .receiverD 1) ∧
      seen (exec (.rdRx ([0x00, 0x00, 0x00, 0x00, 0x01, 0xFE, 0x27] ++ msg1)) (node (.receiverD 0))) =
        some ([.tx [0x01, 0xFF, 0xFF, 0xFF, 0xFF, 0xFC, 0x02]], .receiverD 0) ∧
      seen (exec (.rdRx ([0x00, 0xFF, 0xFF, 0xFF, 0xFF, 0xFA, 0x2D] ++ msg0)) (node (.receiverD 0xFFFFFFFF))) =
        some ([.deliver msg0, .tx [0x01, 0xFF, 0xFF, 0xFF, 0xFF, 0xFC, 0x02]], .receiverD 0) := by decide
/-- T-D23, T-D9, T-D6 as packet rows. -/
theorem test_packets_d :
    seen (exec (.dData 0 0xFE29 msg0) (node (.receiverD 0))) =
        some ([.deliver msg0, .tx [0x01, 0x00, 0x00, 0x00, 0x00, 0xFF, 0xFE]], .receiverD 1) ∧
      seen (exec (.dAck 0 0xFFFE []) (node (.senderD (windowD (counting 2))))) =
        some ([.done (some 0)], .senderD { base := 1, nextToSend := 3, buffer := [(1, d1), (2, d2)], timer := counting 5 }) ∧
      seen (exec (.dNak 0 0xFFFD []) (node (.senderD (windowD (counting 2))))) =
        some ([], .senderD (windowD (counting 2))) := by decide

/-! ### The timer -/

/-- T-T3, T-T7. -/
theorem test_tmrArm_and_restart :
    regsAfter (exec (.tmrArm .c) (node (.senderC (waitC 0 expiredTimer)))) = some (.senderC (waitC 0 (counting 5))) ∧
      regsAfter (exec (.tmrRestart .d) (node (.senderD (windowD (counting 1))))) = some (.senderD (windowD (counting 5))) := by
  decide
/-- T-T4, T-T6. -/
theorem test_tmrCancel :
    flagsAfter (exec (.tmrCancel .c) (node (.senderC (waitC 0 (counting 3))))) = some (false, false) ∧
      regsAfter (exec (.tmrCancel .d) (node (.senderD idleD))) = some (.senderD idleD) := by decide
/-- T-T8, T-T9, T-T11. -/
theorem test_tmrTick :
    regsAfter (exec (.tmrTick .c) (node (.senderC (waitC 0 (counting 3))))) = some (.senderC (waitC 0 (counting 2))) ∧
      regsAfter (exec (.tmrTick .d) (node (.senderD (windowD (counting 1))))) = some (.senderD (windowD expiredTimer)) ∧
      regsAfter (exec (.tmrTick .c) (node (.senderC (waitC 0 expiredTimer)))) =
        some (.senderC (waitC 0 expiredTimer)) := by decide

/-! ### RESET, SHUTDOWN, refusals -/

/-- T-R3, R282 (g). -/
theorem test_reset :
    seen (exec (.reset { variant := .c, role := .receiver, mss := 8, n := 0, timeoutTicks := 0 }) (node (.receiverC 200))) =
        some ([], .receiverC 0) ∧
      refusal (exec (.reset { variant := .d, role := .sender, mss := 8, n := 0, timeoutTicks := 5 }) State.reset) =
        some .badConfiguration := by decide
/-- T-R2: the timer's flags. -/
theorem test_reset_clears_the_timer :
    flagsAfter (exec (.reset { variant := .d, role := .sender, mss := 8, n := 4, timeoutTicks := 5 })
      (node (.senderD (windowD (counting 2))))) = some (false, false) := by decide
/-- T-R4. -/
theorem test_shutdown :
    flagsAfter (exec (.shutdown .sender .c) (node (.senderC (waitC 0 (counting 2))))) = some (false, false) ∧
      emitted (exec (.shutdown .sender .c) (node (.senderC (waitC 0 (counting 2))))) = some [] := by decide
/-- T-R5. -/
theorem test_stopped_sender_discards :
    seen (exec (.scSend msg0) { node (.senderC (readyC 0)) with running := false }) = some ([], .senderC (readyC 0)) ∧
      seen (exec (.scRx [0x01]) { node (.senderC (readyC 0)) with running := false }) = some ([], .senderC (readyC 0)) ∧
      seen (exec (.tmrTick .c) { node (.senderC (waitC 0 (counting 2))) with running := false }) =
        some ([], .senderC (waitC 0 (counting 2))) := by decide
/-- T-R8, R282 (c), (f). -/
theorem test_refusals :
    refusal (exec (.raRx (List.replicate 12 0)) (node .receiverA)) = some .frameTooLong ∧
      refusal (exec (.saRx [0x01]) (node .receiverA)) = some .wrongInstance ∧
      refusal (exec (.saSend []) State.powerOn) = some .beforeReset := by decide

/-! ### Sessions -/

/-- R294: a side starts by its own RESET, and not with the other role; R282 (f): before it nothing reaches it. -/
theorem test_session_resets_one_side :
    (Session.powerOn.act (.resetFor .receiver .b { mss := 8, n := 4, timeoutTicks := 5 })).map
        (fun w => (w.sender.regs, w.receiver.regs)) = some (.unconfigured, .receiverB 0) ∧
      (Session.powerOn.act (.reset .sender (sideCfg .receiver .b { mss := 8, n := 4, timeoutTicks := 5 }))).isNone = true ∧
      (Session.powerOn.act (.send msg0)).isNone = true := by decide
/-- R290, R27: SHUTDOWN of the sender of a session leaves no send of variant D pending, the frame in flight stays. -/
theorem test_session_shutdown :
    ((Session.fresh .d { mss := 8, n := 4, timeoutTicks := 5 }).run [.send msg0, .shutdown .sender]).map
        (fun w => (w.sender.running, w.sender.regs.sendPending, w.toReceiver.length)) = some (false, false, 1) := by decide

/-! ### Witnesses: a state and operands that meet the hypotheses of a statement together, clause by clause -/

def idleA : SenderA := { phase := .idle, lastPacket := [] }
def readyB : SenderB := { phase := .ready, currentSequence := 1, lastPacket := [] }
def params8 : Params := { mss := 8, n := 4, timeoutTicks := 5 }
def stopped (r : Regs) : State := { node r with running := false }

theorem witness_SequenceEncoderByVariant :
    (1 : Seq32).toNat < 2 ∧ 2 ≤ (2 : Seq32).toNat ∧ (255 : Seq32).toNat < 256 ∧ 256 ≤ (256 : Seq32).toNat := by decide
theorem witness_SequenceDecoderUnmasked : 1 < 2 ∧ 255 < 256 ∧ 2 ^ 32 - 1 < 2 ^ 32 := by decide
theorem witness_EncodeLaysOutFrame :
    (node .receiverA).regs ≠ .unconfigured ∧ (2 : Byte).toNat ≤ 2 ∧ seqInDomain .d (0xFFFFFFFF : Seq32).toNat = true ∧
      seqInDomain .b (1 : Seq32).toNat = true ∧ (List.replicate 8 (0 : Byte)).length ≤ (node .receiverA).params.mss := by decide
theorem witness_DecodeReadsFields :
    (d0.take 6).length < headerSize .d ∧ headerSize .d ≤ d0.length ∧ ([] : Frame).length < headerSize .a := by decide
theorem witness_CodecRoundTrip : (2 : Byte).toNat ≤ 2 ∧ seqInDomain .c 255 = true ∧ seqInDomain .b 1 = true := by decide
theorem witness_SingleByteChangeDetected :
    (0 : Byte).toNat ≤ 2 ∧ seqInDomain .b 0 = true ∧ 8 < (Codec.encode .b 0 0 msg0).length ∧
      (Codec.encode .b 0 0 msg0)[8]? ≠ some 0x31 := by decide
/-- The two frames of T-DEC21. -/
theorem witness_ChecksumSeesOnlyTheTotal :
    (∃ d, Codec.decode .a [0x00, 0xFF, 0xFE, 0x01] = .ok d) ∧ (∃ e, Codec.decode .a [0x01, 0xFF, 0xFE, 0x00] = .ok e) ∧
      (((covered .a [0x00, 0xFF, 0xFE, 0x01]).map BitVec.toNat).sum + ube (memRead [0x00, 0xFF, 0xFE, 0x01] 1 2)) % 2 ^ 16 =
        (((covered .a [0x01, 0xFF, 0xFE, 0x00]).map BitVec.toNat).sum + ube (memRead [0x01, 0xFF, 0xFE, 0x00] 1 2)) % 2 ^ 16 :=
  ⟨⟨_, rfl⟩, ⟨_, rfl⟩, by decide⟩
theorem witness_EncodeInjectiveDecodeTotal :
    seqInDomain .d 0xFFFFFFFF = true ∧ Codec.encode .d 0 0xFFFFFFFF [] = dMax ∧ headerSize .d ≤ dMax.length ∧
      (dMax.take 6).length < headerSize .d := by decide
theorem witness_PlaceholderUnobservable : seqInDomain .d (2 ^ 32 - 1) = true := by decide
theorem witness_InstructionRoundTrip :
    Instr.wellFormed (.encode .receiver .d 0 0xFFFFFFFF msg0) = true ∧ Instr.wellFormed (.seqEnc .sender .a 0) = true ∧
      Instr.wellFormed (.reset { variant := .d, role := .sender, mss := 2 ^ 64 - 1, n := 2 ^ 32 - 1,
                                 timeoutTicks := 2 ^ 64 - 1 }) = true := by decide
theorem witness_DecodedSlotEncodesBack :
    decode .c (.wire [0x01, 0xFF, 0xFE, 0xFF]) = .ok (.cAck 0xFF 0xFEFF []) := rfl
theorem witness_StepRunsDecodedInstruction :
    (node (.senderC (readyC 0))).regs.identity = some (.sender, .c) ∧
      State.source { node (.senderC (readyC 0)) with inbox := [.wire [0x01, 0xFF, 0xFE, 0xFF]] } = some .port ∧
      decode .c (.wire [0x01, 0xFF, 0xFE, 0xFF]) = .ok (.cAck 0xFF 0xFEFF []) ∧
      decodeFrame .c [0x03, 0x00, 0xFF, 0xFC] = .error (.unassignedKind 3) ∧ decodeFrame .c [] = .error (.shortFrame 0) ∧
      decodeOp [0b0001101] = .error (.unassignedOperation 0xD) := by and_intros <;> rfl
/-- The clauses of an instance that no RESET has reached: RESET of a variant-B sender (MSS 1, N 1, TIMEOUT_TICKS 1), a frame. -/
theorem witness_StepRunsDecodedInstruction_beforeReset :
    (∀ slot, State.source { State.powerOn with inbox := [slot] } = some .port) ∧ State.powerOn.regs.identity = none ∧
      decodeOp ([0b0011011] ++ be 8 1 ++ be 4 1 ++ be 8 1) =
        .ok (.reset { variant := .b, role := .sender, mss := 1, n := 1, timeoutTicks := 1 }) :=
  ⟨fun _ => rfl, rfl, rfl⟩
theorem witness_StepServesInternalSourcesOrWaits :
    (node (.senderC (waitC 0 expiredTimer))).source = some .timeout ∧
      (node (.senderC (waitC 0 expiredTimer))).regs.timeoutInstr = some .scTimeout ∧
      State.source { node (.senderA idleA) with held := [msg0] } = some .held ∧
      (node (.senderA idleA)).regs.sendInstr msg0 = some (.saSend msg0) ∧
      (∀ src, State.reset.available src = false) :=
  ⟨rfl, rfl, rfl, rfl, fun src => by cases src <;> rfl⟩
theorem witness_EveryOrderOfEventsAdmitted :
    State.available { node (.senderD (windowD expiredTimer)) with inbox := [.wire []], held := [[]] } .port = true ∧
      State.available { node (.senderD (windowD expiredTimer)) with inbox := [.wire []], held := [[]] } .held = true ∧
      State.available { node (.senderD (windowD expiredTimer)) with inbox := [.wire []], held := [[]] } .timeout = true := by
  decide
theorem witness_SaSendTransmitsAndWaits :
    (node (.senderA idleA)).regs = .senderA idleA ∧ (node (.senderA idleA)).running = true ∧ idleA.phase = .idle ∧
      waitA.phase = .awaitingResponse ∧ (List.replicate 8 (0 : Byte)).length ≤ (node (.senderA idleA)).params.mss ∧
      (node (.senderA idleA)).params.mss < (List.replicate 9 (0 : Byte)).length ∧
      State.held { node (.senderA idleA) with held := [[]] } ≠ [] := by decide
theorem witness_SaRxBranches :
    (node (.senderA waitA)).running = true ∧ waitA.phase = .awaitingResponse ∧ idleA.phase = .idle ∧
      ([0x01, 0xFF] : Frame).length < 3 ∧
      (∃ d, Codec.decode .a [0x01, 0xFF, 0xFF] = .ok d ∧ d.checksumOk = false) ∧
      (∃ d, Codec.decode .a [0x02, 0xFF, 0xFD] = .ok d ∧ d.kind = 2) ∧
      (∃ d, Codec.decode .a [0x01, 0xFF, 0xFE] = .ok d ∧ d.checksumOk = true ∧ d.kind = 1) ∧
      (∃ d, Codec.decode .a [0x03, 0xFF, 0xFC] = .ok d ∧ d.checksumOk = true ∧ d.kind ≠ 1 ∧ d.kind ≠ 2) ∧
      (node (.senderA waitA)).saUnrecognized = .retransmit ∧
      ([0x00, 0xFF, 0xFF, 0, 0, 0, 0, 0, 0, 0, 0] : Frame).length ≤ 3 + (node (.senderA waitA)).params.mss :=
  ⟨rfl, rfl, rfl, by decide, ⟨_, rfl, rfl⟩, ⟨_, rfl, rfl⟩, ⟨_, rfl, rfl, rfl⟩, ⟨_, rfl, rfl, by decide, by decide⟩, rfl, by decide⟩
theorem witness_RaRxBranches :
    (node .receiverA).regs = .receiverA ∧ (node .receiverA).running = true ∧
      (∃ d, Codec.decode .a [0x01, 0xFF, 0xFF] = .ok d ∧ d.checksumOk = false) ∧
      (∃ d, Codec.decode .a [0x00, 0xFF, 0xFF] = .ok d ∧ d.checksumOk = true ∧ d.kind = 0) ∧
      (∃ d, Codec.decode .a [0x02, 0xFF, 0xFD] = .ok d ∧ d.checksumOk = true ∧ d.kind ≠ 0) :=
  ⟨rfl, rfl, ⟨_, rfl, rfl⟩, ⟨_, rfl, rfl, rfl⟩, ⟨_, rfl, rfl, by decide⟩⟩
theorem witness_SbSendTransmitsAndWaits :
    (node (.senderB readyB)).regs = .senderB readyB ∧ (node (.senderB readyB)).running = true ∧ readyB.phase = .ready ∧
      waitB.phase = .waitAck ∧ (List.replicate 8 (0 : Byte)).length ≤ (node (.senderB readyB)).params.mss ∧
      (node (.senderB readyB)).params.mss < (List.replicate 9 (0 : Byte)).length := by decide
theorem witness_SbRxBranches :
    (node (.senderB waitB)).running = true ∧ waitB.phase = .waitAck ∧ readyB.phase = .ready ∧ waitB.currentSequence = 0 ∧
      (∃ d, Codec.decode .b [0x01, 0x00, 0xFF, 0xFF] = .ok d ∧ d.checksumOk = false) ∧
      (∃ d, Codec.decode .b [0x02, 0x01, 0xFF, 0xFC] = .ok d ∧ d.checksumOk = true ∧ d.kind = 2 ∧ d.seq = some 1) ∧
      (∃ d, Codec.decode .b [0x01, 0x00, 0xFF, 0xFE] = .ok d ∧ d.checksumOk = true ∧ d.kind = 1 ∧ d.seq = some 0) ∧
      (∃ d, Codec.decode .b [0x02, 0x00, 0xFF, 0xFD] = .ok d ∧ d.checksumOk = true ∧ d.kind = 2 ∧ d.seq = some 0) ∧
      (∃ d, Codec.decode .b [0x01, 0x02, 0xFF, 0xFC] = .ok d ∧ d.checksumOk = true ∧ d.seq = some 2) :=
  ⟨rfl, rfl, rfl, rfl, ⟨_, rfl, rfl⟩, ⟨_, rfl, rfl, rfl, rfl⟩, ⟨_, rfl, rfl, rfl, rfl⟩, ⟨_, rfl, rfl, rfl, rfl⟩, ⟨_, rfl, rfl, rfl⟩⟩
theorem witness_RbRxBranches :
    (node (.receiverB 1)).regs = .receiverB 1 ∧ (node (.receiverB 1)).running = true ∧
      (∃ d, Codec.decode .b [0x00, 0x01, 0xFF, 0xFF] = .ok d ∧ d.checksumOk = false) ∧
      (∃ d, Codec.decode .b [0x00, 0x01, 0xFF, 0xFE] = .ok d ∧ d.checksumOk = true ∧ d.kind = 0 ∧ d.seq = some 1) ∧
      (∃ d, Codec.decode .b [0x00, 0x02, 0xFF, 0x85, 0x78] = .ok d ∧ d.checksumOk = true ∧ d.kind = 0 ∧ d.seq ≠ some 1) :=
  ⟨rfl, rfl, ⟨_, rfl, rfl⟩, ⟨_, rfl, rfl, rfl, rfl⟩, ⟨_, rfl, rfl, rfl, by decide⟩⟩
theorem witness_ScSendArmsTimer :
    (node (.senderC (readyC 255))).regs = .senderC (readyC 255) ∧ (node (.senderC (readyC 255))).running = true ∧
      (readyC 255).phase = .ready ∧ (waitC 0 (counting 3)).phase = .waitAck ∧
      (node (.senderC (readyC 255))).params.mss < (List.replicate 9 (0 : Byte)).length := by decide
theorem witness_ScRxBranches :
    (node (.senderC (waitC 255 (counting 5)))).running = true ∧
      (waitC 255 (counting 5)).timer.remaining ≤ (node (.senderC (waitC 255 (counting 5)))).params.timeoutTicks ∧
      (waitC 255 (counting 5)).phase = .waitAck ∧ (readyC 0).phase = .ready ∧
      (∃ d, Codec.decode .c [0x01, 0xFF, 0xFE, 0xFF] = .ok d ∧ d.checksumOk = true ∧ d.kind = 1 ∧ d.seq = some 255) ∧
      (∃ d, Codec.decode .c [0x01, 0x00, 0xFF, 0xFE] = .ok d ∧ d.seq ≠ some 255) :=
  ⟨rfl, by decide, rfl, rfl, ⟨_, rfl, rfl, rfl, rfl⟩, ⟨_, rfl, by decide⟩⟩
theorem witness_ScTimeoutRetransmits :
    (node (.senderC (waitC 7 expiredTimer))).running = true ∧ (waitC 7 expiredTimer).timer.expired = true ∧
      (waitC 7 expiredTimer).phase = .waitAck ∧ SenderC.phase { readyC 0 with timer := expiredTimer } = .ready ∧
      (waitC 7 (counting 1)).timer.expired = false := by decide
theorem witness_RcRxBranches :
    (node (.receiverC 0)).regs = .receiverC 0 ∧ (node (.receiverC 0)).running = true ∧ 255 = ((0 : BitVec 8).toNat + 255) % 256 ∧
      (∃ d, Codec.decode .c [0x00, 0x00, 0xFF, 0xFF] = .ok d ∧ d.checksumOk = true ∧ d.kind = 0 ∧ d.seq = some 0) ∧
      (∃ d, Codec.decode .c [0x00, 0xFF, 0xFF, 0x00] = .ok d ∧ d.checksumOk = true ∧ d.kind = 0 ∧ d.seq ≠ some 0) ∧
      (∃ d, Codec.decode .c [0x00, 0x00, 0x00, 0x00] = .ok d ∧ d.checksumOk = false) :=
  ⟨rfl, rfl, by decide, ⟨_, rfl, rfl, rfl, rfl⟩, ⟨_, rfl, rfl, rfl, by decide⟩, ⟨_, rfl, rfl⟩⟩
theorem witness_SdSendBuffersAndTransmits :
    (node (.senderD (windowD (counting 2)))).running = true ∧ (windowD (counting 2)).buffer.wf ∧
      ((windowD (counting 2)).nextToSend - (windowD (counting 2)).base).toNat < 4 ∧
      4 ≤ (SenderD.nextToSend { idleD with nextToSend := 7 } - idleD.base).toNat ∧ idleD.base = idleD.nextToSend ∧
      (List.replicate 8 (0 : Byte)).length ≤ 8 ∧ 8 < (List.replicate 9 (0 : Byte)).length := by decide
theorem witness_SdRxBranches :
    (node (.senderD (windowD (counting 5)))).running = true ∧ (windowD (counting 5)).buffer.wf ∧
      (windowD (counting 5)).timer.remaining ≤ 5 ∧
      (∃ d, Codec.decode .d [0x01, 0x00, 0x00, 0x00, 0x02, 0xFF, 0xFC] = .ok d ∧
        d.checksumOk = true ∧ d.kind = 1 ∧ d.seq = some (2 : Seq32).toNat) ∧
      ((2 : Seq32) - (windowD (counting 5)).base).toNat < 3 ∧ (2 : Seq32) + 1 = (windowD (counting 5)).nextToSend ∧
      3 ≤ ((3 : Seq32) - (windowD (counting 5)).base).toNat ∧
      (∃ d, Codec.decode .d [0x02, 0x00, 0x00, 0x00, 0x00, 0xFF, 0xFD] = .ok d ∧ d.kind ≠ 1) :=
  ⟨rfl, by decide, by decide, ⟨_, rfl, rfl, rfl, rfl⟩, by decide, by decide, by decide, ⟨_, rfl, by decide⟩⟩
theorem witness_SdTimeoutGoesBackN :
    (node (.senderD (wrapD expiredTimer))).running = true ∧ (wrapD expiredTimer).timer.expired = true ∧
      (wrapD expiredTimer).base ≠ (wrapD expiredTimer).nextToSend ∧
      [dMax, d0].length = ((wrapD expiredTimer).nextToSend - (wrapD expiredTimer).base).toNat ∧
      (wrapD expiredTimer).buffer.read ((wrapD expiredTimer).base + BitVec.ofNat 32 0) = [dMax, d0][0]? ∧
      (wrapD expiredTimer).buffer.read ((wrapD expiredTimer).base + BitVec.ofNat 32 1) = [dMax, d0][1]? ∧
      idleD.base = idleD.nextToSend := by decide
theorem witness_RdRxBranches :
    (node (.receiverD 0)).regs = .receiverD 0 ∧ (node (.receiverD 0)).running = true ∧
      2 ^ 32 - 1 = ((0 : Seq32).toNat + (2 ^ 32 - 1)) % 2 ^ 32 ∧
      (∃ d, Codec.decode .d d0 = .ok d ∧ d.checksumOk = true ∧ d.kind = 0 ∧ d.seq = some 0) ∧
      (∃ d, Codec.decode .d dMax = .ok d ∧ d.checksumOk = true ∧ d.kind = 0 ∧ d.seq ≠ some 0) :=
  ⟨rfl, rfl, by decide, ⟨_, rfl, rfl, rfl, rfl⟩, ⟨_, rfl, rfl, rfl, by decide⟩⟩
theorem witness_PacketHandledUnderOwnLayout : (node (.receiverB 0)).regs.identity = some (.receiver, .b) := by decide
theorem witness_VariantAPacketsTakeEffect :
    (node .receiverA).running = true ∧ msg0.length ≤ (node .receiverA).params.mss ∧ (node .receiverA).regs = .receiverA ∧
      waitA.phase = .awaitingResponse ∧
      (0xFE29 : Word16).toNat = 0xFFFF - (0 + (msg0.map BitVec.toNat).sum) % 2 ^ 16 ∧
      (0xFFFE : Word16).toNat = 0xFFFF - (1 + (([] : Frame).map BitVec.toNat).sum) % 2 ^ 16 ∧
      (0xFFFD : Word16).toNat = 0xFFFF - (2 + (([] : Frame).map BitVec.toNat).sum) % 2 ^ 16 := by decide
theorem witness_VariantBPacketsTakeEffect :
    (node (.receiverB 1)).regs = .receiverB 1 ∧ (1 : Byte).toNat = (1 : BitVec 1).toNat ∧ waitB.phase = .waitAck ∧
      (0 : Byte).toNat = waitB.currentSequence.toNat ∧
      (0xFE28 : Word16).toNat = 0xFFFF - (0 + (1 : Byte).toNat + (msg0.map BitVec.toNat).sum) % 2 ^ 16 ∧
      (0xFFFE : Word16).toNat = 0xFFFF - (1 + (0 : Byte).toNat + (([] : Frame).map BitVec.toNat).sum) % 2 ^ 16 ∧
      (0xFFFD : Word16).toNat = 0xFFFF - (2 + (0 : Byte).toNat + (([] : Frame).map BitVec.toNat).sum) % 2 ^ 16 := by decide
theorem witness_VariantCPacketsTakeEffect :
    (node (.receiverC 255)).regs = .receiverC 255 ∧ (waitC 255 (counting 1)).phase = .waitAck ∧
      (255 : Byte) = (waitC 255 (counting 1)).currentSequence ∧
      (node (.receiverC 255)).regs.identity = some (.receiver, .c) ∧
      (0xFD2A : Word16).toNat = 0xFFFF - (0 + (255 : Byte).toNat + (msg0.map BitVec.toNat).sum) % 2 ^ 16 ∧
      (0xFEFF : Word16).toNat = 0xFFFF - (1 + (255 : Byte).toNat + (([] : Frame).map BitVec.toNat).sum) % 2 ^ 16 ∧
      (0xFEFE : Word16).toNat = 0xFFFF - (2 + (255 : Byte).toNat + (([] : Frame).map BitVec.toNat).sum) % 2 ^ 16 := by decide
theorem witness_VariantDPacketsTakeEffect :
    (node (.receiverD 0)).regs = .receiverD 0 ∧ (node (.receiverD 0)).regs.identity = some (.receiver, .d) ∧
      ((2 : Seq32) - (windowD (counting 1)).base).toNat < 3 ∧
      (0xFE29 : Word16).toNat = 0xFFFF - (0 + ((be 4 0 ++ msg0).map BitVec.toNat).sum) % 2 ^ 16 ∧
      (0xFFFC : Word16).toNat = 0xFFFF - (1 + ((be 4 2 ++ []).map BitVec.toNat).sum) % 2 ^ 16 ∧
      (0xFFFD : Word16).toNat = 0xFFFF - (2 + ((be 4 0 ++ []).map BitVec.toNat).sum) % 2 ^ 16 := by decide
theorem witness_TimerArmAndRestartLoad :
    (node (.senderC (readyC 0))).regs = .senderC (readyC 0) ∧ (node (.senderD idleD)).regs = .senderD idleD := by decide
theorem witness_TimerCancelIdles :
    (readyC 0).timer.remaining ≤ 5 ∧ (readyC 0).timer.armed = false ∧ (readyC 0).timer.expired = false ∧
      (waitC 0 (counting 5)).timer.remaining ≤ 5 := by decide
theorem witness_TimerTickCountsDown :
    (∃ r, (node (.senderC (waitC 0 (counting 2)))).regs = .senderC r ∧ r.timer = counting 2) ∧
      (counting 2).armed = true ∧ 1 < (counting 2).remaining ∧ (counting 1).remaining = 1 ∧ expiredTimer.armed = false :=
  ⟨⟨_, rfl, rfl⟩, rfl, by decide, rfl, rfl⟩
theorem witness_TimerExpiresOnceAfterTimeoutTicks : 1 ≤ 1 ∧ 0 < 1 ∧ 1 ≤ 1 := by decide
theorem witness_DeadlineTimerAgreesWithCountdown : 1 ≤ 1 := by decide
theorem witness_ResetLeavesResetValues :
    legalCfg { variant := .d, role := .sender, mss := 0, n := 2 ^ 32 - 1, timeoutTicks := 1 } = true ∧
      legalCfg { variant := .c, role := .sender, mss := 0, n := 0, timeoutTicks := 1 } = true ∧
      legalCfg { variant := .a, role := .receiver, mss := 0, n := 0, timeoutTicks := 0 } = true := by decide
theorem witness_ResetStateIsSoundAndReady :
    legalCfg { variant := .d, role := .sender, mss := 0, n := 1, timeoutTicks := 1 } = true ∧
      legalCfg { variant := .d, role := .receiver, mss := 0, n := 1, timeoutTicks := 1 } = true := by decide
theorem witness_ShutdownStopsTheInstance :
    (node (.senderC (waitC 0 (counting 2)))).regs.identity = some (.sender, .c) ∧
      (node (.senderD idleD)).regs.identity = some (.sender, .d) ∧ (node .receiverA).regs.identity = some (.receiver, .a) ∧
      (stopped (.senderC (readyC 0))).running = false ∧
      (stopped (.senderC (readyC 0))).regs.sendInstr msg0 = some (.scSend msg0) ∧
      (stopped (.senderC (readyC 0))).regs.timeoutInstr = some .scTimeout := by decide
theorem witness_OutsideContractIsRefused :
    (node (.senderA idleA)).canAccept = true ∧ (node (.senderA idleA)).params.mss < (List.replicate 9 (0 : Byte)).length ∧
      headerSize .a + (node (.senderA idleA)).params.mss < (List.replicate 12 (0 : Byte)).length ∧
      addressee (.raRx []) = some (.receiver, .a) ∧ (node (.senderA idleA)).regs.identity = some (.sender, .a) ∧
      2 < (3 : Byte).toNat ∧ seqInDomain .b (2 : Seq32).toNat = false ∧ 0xD ≤ 0xF ∧
      State.powerOn.regs = .unconfigured ∧ addressee (.saSend []) = some (.sender, .a) := by decide
theorem witness_ErrorCausesChangeNoRegister :
    frameCause (.receiverB 0) [0x00] = some .framing ∧ frameCause (.receiverB 0) [0x00, 0x00, 0x00, 0x00] = some .checksum ∧
      frameCause (.receiverB 0) [0x00, 0x01, 0xFF, 0xFE] = some .sequence ∧
      frameCause (.senderB waitB) [0x01, 0x01, 0xFF, 0xFD] = some .sequence ∧ (node (.receiverB 0)).running = true := by decide

/-- A sound variant-C sender that waits. -/
theorem sound_waiting_c : (node (.senderC (waitC 0 (counting 5)))).Sound :=
  ⟨by decide, ⟨by decide, by decide, by decide⟩, fun _ => ⟨msg0, by decide, by decide⟩⟩
/-- A sound variant-D sender with nothing outstanding. -/
theorem sound_idle_d : (node (.senderD idleD)).Sound :=
  ⟨by decide, by decide, by decide, ⟨by decide, by decide, by decide⟩, by decide, by decide, fun _ _ => rfl⟩

theorem witness_StepKeepsSoundState :
    (node (.senderC (waitC 0 (counting 5)))).Sound ∧ (node (.senderD idleD)).Sound ∧
      ∃ t, step { node (.senderD idleD) with inbox := [.op (0b0110101 :: msg0)] } = .next t :=
  ⟨sound_waiting_c, sound_idle_d, ⟨_, rfl⟩⟩
theorem witness_HandlersKeepTimerTracking :
    isMicroOperation (.scRx [0x01, 0x00, 0xFF, 0xFE]) = false ∧ (node (.senderC (waitC 0 (counting 5)))).Sound ∧
      (node (.senderC (waitC 0 (counting 5)))).TimerTracksOutstanding ∧
      ∃ t, exec (.scRx [0x01, 0x00, 0xFF, 0xFE]) (node (.senderC (waitC 0 (counting 5)))) = .next t :=
  ⟨rfl, sound_waiting_c, fun _ => ⟨by decide, by decide⟩, ⟨_, rfl⟩⟩
theorem witness_SoundStateNeverFaults :
    (node (.senderD idleD)).Sound ∧
      exec .sdTimeout (node (.senderD { base := 0, nextToSend := 1, buffer := [], timer := expiredTimer })) =
        .fault (.bufferEntryMissing 0) ∧
      0 < ((1 : Seq32) - 0).toNat ∧ Memory.read [] ((0 : Seq32) + BitVec.ofNat 32 0) = none :=
  ⟨sound_idle_d, rfl, by decide, rfl⟩
theorem witness_OnlyResetChangesConfiguration :
    (∀ cfg, Instr.scTimeout ≠ .reset cfg) ∧ ∃ t, exec .scTimeout (node (.senderC (waitC 0 expiredTimer))) = .next t :=
  ⟨fun _ => nofun, ⟨_, rfl⟩⟩
theorem witness_WaitKeepsPacketAndEndsInDone :
    (∀ cfg, Instr.saRx [0x01, 0xFF, 0xFE] ≠ .reset cfg) ∧ waitA.phase = .awaitingResponse ∧
      (∃ t, exec (.saRx [0x01, 0xFF, 0xFE]) (node (.senderA waitA)) = .next t) ∧
      (∃ t, exec (.sbRx [0x01, 0x00, 0xFF, 0xFE]) (node (.senderB waitB)) = .next t) ∧
      (∃ t, exec (.scRx [0x01, 0x00, 0xFF, 0xFE]) (node (.senderC (waitC 0 (counting 1)))) = .next t) :=
  ⟨fun _ => nofun, rfl, ⟨_, rfl⟩, ⟨_, rfl⟩, ⟨_, rfl⟩⟩
theorem witness_ReceivedFrameNeverRetransmitsInCAndD :
    (∃ t, exec (.scRx [0x02, 0x00, 0xFF, 0xFD]) (node (.senderC (waitC 0 (counting 1)))) = .next t) ∧
      ∃ t, exec (.sdRx [0x01, 0xFF, 0xFF, 0xFF, 0xFF, 0xFC, 0x02]) (node (.senderD (windowD (counting 1)))) = .next t :=
  ⟨⟨_, rfl⟩, ⟨_, rfl⟩⟩
theorem witness_WithoutTimerOnlyAFrameMovesTheSender :
    (node (.senderB waitB)).regs.identity = some (.sender, .b) ∧ (node (.senderB waitB)).regs.sendPending = true ∧
      (∀ cfg, Instr.sbSend msg0 ≠ .reset cfg) ∧ isReception (.sbSend msg0) = false ∧
      ∃ t, exec (.sbSend msg0) (node (.senderB waitB)) = .next t :=
  ⟨rfl, rfl, fun _ => nofun, rfl, ⟨_, rfl⟩⟩
theorem witness_NakNeverSentInCAndD :
    (node (.senderC (waitC 0 (counting 5)))).Sound ∧ (node (.receiverD 0)).Sound ∧
      (node (.receiverD 0)).regs.identity = some (.receiver, .d) ∧
      ∃ t, exec (.rdRx [0x00, 0x00, 0x00, 0x00, 0x00, 0x00, 0x00]) (node (.receiverD 0)) = .next t :=
  ⟨sound_waiting_c, trivial, rfl, ⟨_, rfl⟩⟩
theorem witness_PerfectChannelDeliversAll :
    1 ≤ params8.timeoutTicks ∧ 1 ≤ params8.n ∧ params8.n ≤ 2 ^ 32 - 1 ∧ ∀ d ∈ [msg0, msg1, []], d.length ≤ params8.mss := by
  decide
/-- One payload sent, corrupted in the channel, refused by NAK, sent again, delivered and acknowledged. -/
theorem witness_VariantBDeliversExactlyOnce :
    ∃ w, Session.Reaches (fun w a => a.isReset = false ∧ a.DetectedIn .b w ∧ a.keepsControl = true)
        (Session.fresh .b params8) w ∧
      w.sent = [msg0] ∧ w.sender.regs.sendPending = false :=
  ⟨_, .step (.deliverToSender 0 []) (.step (.deliverToReceiver 0 []) (.step (.deliverToSender 0 [])
    (.step (.deliverToReceiver 0 [(6, 0x68)]) (.step (.send msg0) (.refl _) ⟨rfl, trivial, rfl⟩ rfl)
      ⟨rfl, fun f h => .inr (by cases h; exact ⟨_, rfl, rfl⟩), rfl⟩ rfl) ⟨rfl, fun _ _ => .inl rfl, rfl⟩ rfl)
      ⟨rfl, fun _ _ => .inl rfl, rfl⟩ rfl) ⟨rfl, fun _ _ => .inl rfl, rfl⟩ rfl, rfl, rfl⟩
theorem witness_VariantCDeliversExactlyOnce :
    ∃ w, Session.Reaches (fun w a => a.isReset = false ∧ a.DetectedIn .c w) (Session.fresh .c params8) w ∧
      w.sent.length < 2 ^ 8 ∧ w.sender.regs.sendPending = false ∧ w.sent = [msg0] :=
  ⟨_, .step (.deliverToSender 0 []) (.step (.deliverToReceiver 0 []) (.step (.send msg0) (.refl _) ⟨rfl, trivial⟩ rfl)
    ⟨rfl, fun _ _ => .inl rfl⟩ rfl) ⟨rfl, fun _ _ => .inl rfl⟩ rfl, by decide, rfl, rfl⟩
theorem witness_VariantDDeliversExactlyOnce :
    ∃ w, 1 ≤ params8.n ∧ params8.n ≤ 2 ^ 32 - 1 ∧
      Session.Reaches (fun w a => a.isReset = false ∧ a.DetectedIn .d w) (Session.fresh .d params8) w ∧
      w.sent.length < 2 ^ 32 ∧ w.sent = [msg0] ∧ w.sender.running = true ∧ w.sender.regs.sendPending = false :=
  ⟨_, by decide, by decide, .step (.shutdown .receiver) (.step (.deliverToSender 0 []) (.step (.deliverToReceiver 0 [])
    (.step (.send msg0) (.refl _) ⟨rfl, trivial⟩ rfl) ⟨rfl, fun _ _ => .inl rfl⟩ rfl) ⟨rfl, fun _ _ => .inl rfl⟩ rfl)
    ⟨rfl, trivial⟩ rfl, by decide, rfl, rfl, rfl⟩
theorem witness_VariantADeliversTwiceAfterBadAck : msg0.length ≤ params8.mss := by decide
theorem witness_OneSidedResetLosesSilentlyInB :
    msg0.length ≤ params8.mss ∧ readyB.phase = .ready ∧ readyB.currentSequence = 1 ∧ (node (.senderB readyB)).running = true ∧
      (node (.senderB readyB)).params = params8 ∧ (node (.senderB readyB)).regs = .senderB readyB ∧
      Session.powerOn.toReceiver = [] ∧ Session.powerOn.toSender = [] := by decide
theorem witness_RingSlotsKeepWindowApart :
    0 < 3 ∧ 3 < 4 ∧ (0xFFFFFFFC : Seq32).toNat + 3 < 2 ^ 32 ∧ 2 ^ 32 % 4 = 0 ∧
      ¬ ((0xFFFFFFFF : Seq32).toNat + 1 < 2 ^ 32 ∨ 2 ^ 32 % 3 = 0) := by decide

end Sys2Proof.Tests
end

section
/-! PROOFS. Scope (00_scope.md): what no instruction but RESET can change, and what not even RESET changes. -/

namespace Sys2Proof.Machine

/-- `t` comes after `s` under the same static configuration (R7, R36), with outputs only appended to the log (R17, R73). -/
structure State.SameConfig (s t : State) : Prop where
  outputs : s.outputs <+: t.outputs
  saUnrecognized : t.saUnrecognized = s.saUnrecognized
  params : t.params = s.params
  identity : t.regs.identity = s.regs.identity

namespace State.SameConfig

theorem refl (s : State) : s.SameConfig s := ⟨List.prefix_refl _, rfl, rfl, rfl⟩

theorem trans {s t u : State} (h : s.SameConfig t) (k : t.SameConfig u) : s.SameConfig u :=
  ⟨h.outputs.trans k.outputs, k.saUnrecognized.trans h.saUnrecognized, k.params.trans h.params,
    k.identity.trans h.identity⟩

theorem emit (s : State) (os : List Output) : s.SameConfig (s.emit os) := ⟨List.prefix_append _ _, rfl, rfl, rfl⟩

theorem hold (s : State) (data : Frame) : s.SameConfig (s.hold data) := ⟨List.prefix_refl _, rfl, rfl, rfl⟩

theorem setResult (s : State) (r : OpResult) : s.SameConfig (s.setResult r) := ⟨List.prefix_refl _, rfl, rfl, rfl⟩

/-- Registers of the same role and variant: what every handler writes. -/
theorem setRegs {s : State} {r r' : Regs} (hr : s.regs = r) (hi : r'.identity = r.identity := by rfl) :
    s.SameConfig (s.setRegs r') :=
  ⟨List.prefix_refl _, rfl, rfl, by rw [setRegs_regs, hi, hr]⟩

theorem setRegs_emit {s : State} {r r' : Regs} (os : List Output) (hr : s.regs = r)
    (hi : r'.identity = r.identity := by rfl) : s.SameConfig ((s.setRegs r').emit os) :=
  (setRegs hr hi).trans (emit _ os)

end State.SameConfig

@[simp] theorem shutdownRegs_identity (u : Nat) (r : Regs) : (shutdownRegs u r).identity = r.identity := by
  cases r <;> rfl

theorem acknowledge_sameConfig {s t : State} {r : SenderD} {q : Seq32} (hr : s.regs = .senderD r)
    (h : acknowledge r q s = .next t) : s.SameConfig t := by
  cases h
  exact .setRegs_emit _ hr

theorem onTimer_sameConfig {v : TimedVariant} {s t : State} {g : Timer → Timer} (h : onTimer v s g = .next t) :
    s.SameConfig t := by
  obtain ⟨r, _, hr, rfl⟩ | ⟨r, _, hr, rfl⟩ := onTimer_eq_next h
  · exact .setRegs hr
  · exact .setRegs hr

/-- Every effect keeps the role, the variant and the numeric configuration: the handlers write registers of the
constructor they found, and the rest write none. -/
theorem Effect.sameConfig {s t : State} (e : Effect s t) : s.SameConfig t := by
  cases e with
  | same h => exact h ▸ .refl s
  | held data h _ => exact h ▸ .hold s data
  | result r h => exact h ▸ .setResult s r
  | framingError _ h | aRetransmit _ _ _ h | aReply _ _ h | aDeliver _ _ h | bRetransmit _ _ _ h | bReply _ _ _ _ h
  | cReply _ _ h | dReply _ _ h => exact h ▸ .emit s _
  | aSend _ _ hr _ _ h | aDone _ hr _ h | bSend _ _ hr _ _ h | bDone _ hr _ h | bDeliver _ _ hr h
  | cSend _ _ hr _ _ _ h | cDone _ hr _ _ h | cTimeout _ hr _ _ _ h | cDeliver _ _ hr h
  | dSend _ _ hr _ _ _ h | dTimeout _ _ hr _ _ _ _ h | dDeliver _ _ hr h => exact h ▸ .setRegs_emit _ hr
  | cTimeoutIdle _ hr _ _ _ h | dTimeoutIdle _ hr _ _ _ h => exact h ▸ .setRegs hr
  | dAck _ _ hr _ _ h => exact acknowledge_sameConfig hr h
  | shutdown h => exact h ▸ ⟨List.prefix_refl _, rfl, rfl, shutdownRegs_identity _ _⟩

/-- Every instruction but RESET keeps the configuration and only appends outputs. -/
theorem exec_sameConfig {i : Instr} {s t : State} (hi : ∀ cfg, i ≠ .reset cfg) (h : exec i s = .next t) :
    s.SameConfig t := by
  obtain ⟨cfg, rfl⟩ | ⟨v, g, _, h⟩ | e := exec_effect h
  · exact absurd rfl (hi cfg)
  · exact onTimer_sameConfig h
  · exact e.sameConfig

/-- RESET answers next: the configuration was legal, and the registers are at their reset values (R310, R312). -/
theorem execReset_eq_next {cfg : Cfg} {s t : State} (h : execReset cfg s = .next t) :
    legalCfg cfg = true ∧ t = { s with
      params := { mss := cfg.mss, n := cfg.n, timeoutTicks := cfg.timeoutTicks }
      running := true
      regs := Regs.initial cfg.role cfg.variant (unspecifiedPacket cfg.variant cfg.mss s.draws)
        (unspecifiedRemaining cfg.timeoutTicks s.draws)
      held := [] } := by
  unfold execReset at h
  split at h
  · next hl => cases h; exact ⟨hl, rfl⟩
  · cases h

/-- Settles O49: RESET by its own inversion lemma, every other instruction by `exec_sameConfig`. -/
theorem onlyResetChangesConfiguration : Obligations.OnlyResetChangesConfiguration := by
  intro i s t h
  by_cases hi : ∃ cfg, i = .reset cfg
  · obtain ⟨cfg, rfl⟩ := hi
    obtain ⟨_, rfl⟩ := execReset_eq_next h
    exact ⟨⟨[], (List.append_nil _).symm⟩, rfl, fun hn => absurd rfl (hn cfg)⟩
  · obtain ⟨⟨os, ho⟩, hu, hp, hid⟩ := exec_sameConfig (not_exists.mp hi) h
    exact ⟨⟨os, ho.symm⟩, hu, fun _ => ⟨hp, hid⟩⟩

end Sys2Proof.Machine
end

section
/-! PROOFS. Memory (20_memory.md): the stored frame of a waiting sender, the slots of a ring in place of the buffer, and the
one event that a step takes from the input port. -/

namespace Sys2Proof.Machine

/-! ### A waiting sender -/

/-- What a sender with registers `r` in `s` finds in `t`, if it waits in `s`: its stored frame, its sequence while it goes
on waiting, and one completion as the only output if it does not (R62, R76, R301). -/
def WaitKept (s t : State) : Regs → Prop
  | .senderA r => r.phase = .awaitingResponse →
      ∃ r', t.regs = .senderA r' ∧ r'.lastPacket = r.lastPacket ∧
        (r'.phase = .idle → t.outputs = s.outputs ++ [.done none])
  | .senderB r => r.phase = .waitAck →
      ∃ r', t.regs = .senderB r' ∧ r'.lastPacket = r.lastPacket ∧
        (r'.phase = .waitAck → r'.currentSequence = r.currentSequence) ∧
        (r'.phase = .ready → t.outputs = s.outputs ++ [.done none])
  | .senderC r => r.phase = .waitAck →
      ∃ r', t.regs = .senderC r' ∧ r'.lastPacket = r.lastPacket ∧
        (r'.phase = .waitAck → r'.currentSequence = r.currentSequence) ∧
        (r'.phase = .ready → t.outputs = s.outputs ++ [.done none])
  | _ => True

/-- A waiting sender of variant C may have its timer changed. -/
theorem WaitKept.of_timer {s t : State} {r : SenderC} {x : Timer} (hr : s.regs = .senderC r)
    (ht : t.regs = .senderC { r with timer := x }) : WaitKept s t s.regs := by
  rw [hr]
  exact fun hw => ⟨_, ht, rfl, fun _ => rfl, fun hp => absurd (hw.symm.trans hp) nofun⟩

theorem WaitKept.of_regs_eq {s t : State} (h : t.regs = s.regs) : WaitKept s t s.regs := by
  cases hr : s.regs with
  | senderA r => exact fun hw => ⟨r, h.trans hr, rfl, fun hp => absurd (hw.symm.trans hp) nofun⟩
  | senderB r => exact fun hw => ⟨r, h.trans hr, rfl, fun _ => rfl, fun hp => absurd (hw.symm.trans hp) nofun⟩
  | senderC r => exact hr ▸ .of_timer hr (h.trans hr)
  | _ => trivial

/-- SHUTDOWN writes no register of a waiting sender but its timer (R290). -/
theorem WaitKept.of_shutdownRegs {s t : State} {u : Nat} (h : t.regs = shutdownRegs u s.regs) :
    WaitKept s t s.regs := by
  cases hr : s.regs with
  | senderC r => exact hr ▸ .of_timer hr (h.trans (by rw [hr]; rfl))
  | senderD r => trivial
  | _ => exact hr ▸ .of_regs_eq (h.trans (by rw [hr]; rfl))

theorem onTimer_waitKept {v : TimedVariant} {s t : State} {g : Timer → Timer} (h : onTimer v s g = .next t) :
    WaitKept s t s.regs := by
  obtain ⟨r, _, hr, rfl⟩ | ⟨r, _, hr, rfl⟩ := onTimer_eq_next h
  · exact .of_timer hr rfl
  · rw [hr]; trivial

/-- A SEND is accepted by a sender that does not wait, and a wait is ended only by a completion; every other effect leaves
all registers of a waiting sender but its timer. -/
theorem Effect.waitKept {s t : State} (e : Effect s t) : WaitKept s t s.regs := by
  cases e with
  | same h | held _ h _ | framingError _ h | result _ h | aRetransmit _ _ _ h | aReply _ _ h | aDeliver _ _ h
  | bRetransmit _ _ _ h | bReply _ _ _ _ h | cReply _ _ h | dReply _ _ h =>
    exact .of_regs_eq (by simp [h])
  | aSend _ _ hr hp _ _ | bSend _ _ hr hp _ _ | cSend _ _ hr _ hp _ _ =>
    rw [hr]
    exact fun hw => absurd (hp.symm.trans hw) nofun
  | aDone _ hr _ h =>
    rw [hr, h]
    exact fun _ => ⟨_, rfl, rfl, fun _ => rfl⟩
  | bDone _ hr _ h | cDone _ hr _ _ h =>
    rw [hr, h]
    exact fun _ => ⟨_, rfl, rfl, nofun, fun _ => rfl⟩
  | cTimeout _ hr _ _ _ h | cTimeoutIdle _ hr _ _ _ h => exact .of_timer hr (congrArg State.regs h)
  | bDeliver _ _ hr _ | cDeliver _ _ hr _ | dDeliver _ _ hr _ | dSend _ _ hr _ _ _ _ | dAck _ _ hr _ _ _
  | dTimeout _ _ hr _ _ _ _ _ | dTimeoutIdle _ hr _ _ _ _ => rw [hr]; trivial
  | shutdown h => exact .of_shutdownRegs (congrArg State.regs h)

theorem exec_waitKept {i : Instr} {s t : State} (hi : ∀ cfg, i ≠ .reset cfg) (h : exec i s = .next t) :
    WaitKept s t s.regs := by
  obtain ⟨cfg, rfl⟩ | ⟨v, g, _, h⟩ | e := exec_effect h
  · exact absurd rfl (hi cfg)
  · exact onTimer_waitKept h
  · exact e.waitKept

/-- Settles O50: `exec_waitKept` at the registers of each of the three senders. -/
theorem waitKeepsPacketAndEndsInDone : Obligations.WaitKeepsPacketAndEndsInDone := by
  intro i s t hi h
  have hk := exec_waitKept hi h
  exact ⟨fun r hr => by rwa [hr] at hk, fun r hr => by rwa [hr] at hk, fun r hr => by rwa [hr] at hk⟩

/-! ### The ring of N slots -/

/-- A sequence of the window has the slot of the unwrapped sum, if that does not pass 2^32 or N divides 2^32 (D37). -/
theorem ringSlot_add {n k : Nat} {base : Seq32} (h : base.toNat + k < 2 ^ 32 ∨ 2 ^ 32 % n = 0) :
    ringSlot n (base + BitVec.ofNat 32 k) = (base.toNat + k) % n := by
  rw [ringSlot, BitVec.toNat_add, BitVec.toNat_ofNat, Nat.add_mod_mod]
  obtain h | h := h
  · rw [Nat.mod_eq_of_lt h]
  · exact Nat.mod_mod_of_dvd _ (Nat.dvd_of_mod_eq_zero h)

/-- Settles O60: slots of the window are sums modulo N, and two offsets below N differ by less than N. -/
theorem ringSlotsKeepWindowApart : Obligations.RingSlotsKeepWindowApart := by
  refine ⟨fun n base i j hij hj h heq => ?_, rfl⟩
  rw [ringSlot_add (h.imp_left (by omega)), ringSlot_add h] at heq
  have hdiff : (j - i) % n = 0 := by
    rw [← Nat.add_sub_add_left base.toNat j i]
    exact Nat.sub_mod_eq_zero_of_mod_eq heq.symm
  rw [Nat.mod_eq_of_lt (by omega)] at hdiff
  omega

/-! ### The slot at the port -/

theorem fetch_of_decode {r : Regs} {role : Role} {v : Variant} {slot : Slot} {i : Instr}
    (hid : r.identity = some (role, v)) (h : decode v slot = .ok i) : fetch r slot = .ok i := by
  cases slot with
  | wire f => simp only [decode] at h; simp only [fetch, hid, h]
  | op bs => simp only [decode] at h; simp only [fetch, h]

/-- A frame of no packet row runs as RX on its bytes (R101, R104; log entry 34). -/
theorem fetch_wire_of_error {r : Regs} {role : Role} {v : Variant} {f : Frame} {e : DecodeError}
    (hid : r.identity = some (role, v)) (h : decodeFrame v f = .error e) :
    fetch r (.wire f) = .ok (rxInstr role v f) := by
  simp only [fetch, hid, h]

theorem fetch_wire_of_identity_none {r : Regs} {f : Frame} (h : r.identity = none) :
    fetch r (.wire f) = .error .beforeReset := by
  simp only [fetch, h]

theorem fetch_op_of_ok {r : Regs} {bs : Frame} {i : Instr} (h : decodeOp bs = .ok i) : fetch r (.op bs) = .ok i := by
  simp only [fetch, h]

theorem fetch_op_of_error {r : Regs} {bs : Frame} {e : DecodeError} (h : decodeOp bs = .error e) :
    fetch r (.op bs) = .error (.undecodable e) := by
  simp only [fetch, h]

section
variable {s : State} {slot : Slot} {rest : List Slot}

/-- The port is served (R72): the fetched instruction runs once its slot is gone. -/
theorem step_of_fetch_ok {i : Instr} (hs : s.source = some .port) (hin : s.inbox = slot :: rest)
    (h : fetch s.regs slot = .ok i) : step s = exec i { s.taken with inbox := rest } := by
  simp only [step, State.nextInstr, hs, hin, h]

theorem step_of_fetch_error {e : Refusal} (hs : s.source = some .port) (hin : s.inbox = slot :: rest)
    (h : fetch s.regs slot = .error e) : step s = .refused e := by
  simp only [step, State.nextInstr, hs, hin, h]

end

/-- Settles O14: what the port's slot fetches, case by case, and the step of it. -/
theorem stepRunsDecodedInstruction : Obligations.StepRunsDecodedInstruction := by
  intro s slot rest hs hin
  refine ⟨fun role v hid => ⟨fun i h => ?_, ?_⟩, ?_, ?_, ?_⟩
  · exact step_of_fetch_ok hs hin (fetch_of_decode hid h)
  · rintro f e rfl h
    exact step_of_fetch_ok hs hin (fetch_wire_of_error hid h)
  · rintro bs i rfl h
    exact step_of_fetch_ok hs hin (fetch_op_of_ok h)
  · rintro bs e rfl h
    exact step_of_fetch_error hs hin (fetch_op_of_error h)
  · rintro f rfl hid
    exact step_of_fetch_error hs hin (fetch_wire_of_identity_none hid)

end Sys2Proof.Machine
end

section
/-! PROOFS. Slots (30_encoding.md): the key byte, byte strings of a fixed width, the decoder's equation for each operation
code, and from these that decoder and encoder undo each other. -/

namespace Sys2Proof

/-! ### The key byte (R116) -/

section
variable {op : Nat} (r : Role) (v : Variant)

theorem opKey_toNat (h : op < 16) : (opKey r v op).toNat = r.bit * 64 + v.code * 16 + op := by
  have hr : r.bit ≤ 1 := by cases r <;> decide
  have hv : v.code ≤ 3 := by cases v <;> decide
  rw [opKey, BitVec.toNat_ofNat]
  omega

@[simp] theorem opKey_fits (h : op < 16) : ¬ 128 ≤ (opKey r v op).toNat := by
  rw [opKey_toNat r v h]
  cases r <;> cases v <;> simp only [Role.bit, Variant.code] <;> omega

@[simp] theorem roleOfKey_opKey (h : op < 16) : roleOfKey (opKey r v op) = r := by
  have hv : v.code ≤ 3 := by cases v <;> decide
  rw [roleOfKey, opKey_toNat r v h]
  cases r
  · rw [if_pos (by rw [Role.bit]; omega)]
  · rw [if_neg (by rw [Role.bit]; omega)]

@[simp] theorem variantOfKey_opKey (h : op < 16) : variantOfKey (opKey r v op) = v := by
  have hc : (opKey r v op).toNat / 16 % 4 = v.code := by
    rw [opKey_toNat r v h]
    cases r <;> cases v <;> simp only [Role.bit, Variant.code] <;> omega
  rw [variantOfKey, hc]
  cases v <;> rfl

@[simp] theorem opOfKey_opKey (h : op < 16) : opOfKey (opKey r v op) = op := by
  rw [opOfKey, opKey_toNat r v h]
  omega

end

/-- Every byte with bit 7 clear is the key of some role, variant and operation code. -/
theorem exists_opKey {k : Byte} (h : ¬ 128 ≤ k.toNat) : ∃ r v op, op < 16 ∧ k = opKey r v op := by
  have hop : opOfKey k < 16 := Nat.mod_lt _ (by decide)
  have hr : (roleOfKey k).bit = k.toNat / 64 % 2 := by
    unfold roleOfKey
    split <;> simp only [Role.bit] <;> omega
  have hv : (variantOfKey k).code = k.toNat / 16 % 4 := by
    obtain h | h | h | h : k.toNat / 16 % 4 = 0 ∨ k.toNat / 16 % 4 = 1 ∨ k.toNat / 16 % 4 = 2 ∨
      k.toNat / 16 % 4 = 3 := by omega
    all_goals rw [variantOfKey, h]; rfl
  refine ⟨roleOfKey k, variantOfKey k, opOfKey k, hop, BitVec.eq_of_toNat_eq ?_⟩
  rw [opKey_toNat _ _ hop, hr, hv, opOfKey]
  omega

/-! ### Byte strings of a fixed width (R16, R17) -/

theorem ube_be_of_lt {k n : Nat} (h : n < 256 ^ k) : ube (be k n) = n := by
  rw [ube_be, Nat.mod_eq_of_lt h]

theorem ofNat_ube_be {w : Nat} (k : Nat) (x : BitVec w) (h : 2 ^ w = 256 ^ k := by rfl) :
    BitVec.ofNat w (ube (be k x.toNat)) = x := by
  rw [ube_be_of_lt (h ▸ x.isLt), BitVec.ofNat_toNat, BitVec.setWidth_eq]

theorem be_ofNat_ube {k w : Nat} {bs : Frame} (hk : bs.length = k) (h : 2 ^ w = 256 ^ k := by rfl) :
    be k (BitVec.ofNat w (ube bs)).toNat = bs := by
  subst hk
  rw [BitVec.toNat_ofNat, Nat.mod_eq_of_lt (h ▸ ube_lt bs), be_ube]

theorem ube_memRead_lt (buf : Frame) (off n : Nat) : ube (memRead buf off n) < 256 ^ n :=
  Nat.lt_of_lt_of_le (ube_lt _) (Nat.pow_le_pow_right (by decide) (memRead_length_le buf off n))

theorem be_ube_memRead {buf : Frame} {off n : Nat} (h : off + n ≤ buf.length) :
    be n (ube (memRead buf off n)) = memRead buf off n := by
  have hn : (memRead buf off n).length = n := by
    rw [memRead, List.length_take, List.length_drop]
    omega
  simpa only [hn] using be_ube (memRead buf off n)

theorem memRead_append_memRead (buf : Frame) (off m n : Nat) :
    memRead buf off m ++ memRead buf (off + m) n = memRead buf off (m + n) := by
  rw [memRead, memRead, memRead, List.take_add, List.drop_drop]

/-! ### The decoder on operation slots (R114): an equation for each operation code -/

/-- The TIMEOUT operation of a timed variant. -/
def TimedVariant.timeoutInstr : TimedVariant → Instr
  | .c => .scTimeout
  | .d => .sdTimeout

section
variable (r : Role) (v : Variant) (rest : Frame)

theorem decodeOp_csum16 : decodeOp (opKey r v 0x0 :: rest) = .ok (.csum16 r v rest) := by
  simp [decodeOp]

theorem decodeOp_seqEnc : decodeOp (opKey r v 0x1 :: rest) =
    if rest.length = 4 then (seqOperand v rest).map (Instr.seqEnc r v) else .error (.operandLength rest.length) := by
  simp [decodeOp]

theorem decodeOp_seqDec : decodeOp (opKey r v 0x2 :: rest) =
    if rest.length = seqWidth v then .ok (.seqDec r v rest) else .error (.operandLength rest.length) := by
  simp [decodeOp]

theorem decodeOp_encode (kind q3 q2 q1 q0 : Byte) (p : Frame) :
    decodeOp (opKey r v 0x3 :: kind :: q3 :: q2 :: q1 :: q0 :: p) =
      (seqOperand v [q3, q2, q1, q0]).map fun q => .encode r v kind q p := by
  simp [decodeOp]

theorem decodeOp_encode_short (h : rest.length < 5) :
    decodeOp (opKey r v 0x3 :: rest) = .error (.operandLength rest.length) := by
  match rest with
  | [] | [_] | [_, _] | [_, _, _] | [_, _, _, _] => simp [decodeOp]

theorem decodeOp_decode : decodeOp (opKey r v 0x4 :: rest) = .ok (.decode r v rest) := by
  simp [decodeOp]

theorem decodeOp_send : decodeOp (opKey r v 0x5 :: rest) = decodeSend r v rest := by
  simp [decodeOp]

theorem decodeOp_rx : decodeOp (opKey r v 0x6 :: rest) = .ok (rxInstr r v rest) := by
  simp [decodeOp]

theorem decodeOp_timeout : decodeOp (opKey r v 0x7 :: rest) = decodeTimed r v 0x7 rest TimedVariant.timeoutInstr := by
  simp [decodeOp] <;> rfl

theorem decodeOp_tmrArm : decodeOp (opKey r v 0x8 :: rest) = decodeTimed r v 0x8 rest .tmrArm := by
  simp [decodeOp]

theorem decodeOp_tmrCancel : decodeOp (opKey r v 0x9 :: rest) = decodeTimed r v 0x9 rest .tmrCancel := by
  simp [decodeOp]

theorem decodeOp_tmrTick : decodeOp (opKey r v 0xA :: rest) = decodeTimed r v 0xA rest .tmrTick := by
  simp [decodeOp]

theorem decodeOp_reset : decodeOp (opKey r v 0xB :: rest) =
    if rest.length = 20 then
      .ok (.reset { variant := v, role := r, mss := ube (memRead rest 0 8), n := ube (memRead rest 8 4),
                    timeoutTicks := ube (memRead rest 12 8) })
    else .error (.operandLength rest.length) := by
  simp [decodeOp]

theorem decodeOp_shutdown : decodeOp (opKey r v 0xC :: rest) =
    if rest.isEmpty then .ok (.shutdown r v) else .error (.operandLength rest.length) := by
  simp [decodeOp]

theorem decodeOp_unassigned {op : Nat} (h : 13 ≤ op) (h' : op < 16) :
    decodeOp (opKey r v op :: rest) = .error (.unassignedOperation op) := by
  obtain rfl | rfl | rfl : op = 13 ∨ op = 14 ∨ op = 15 := by omega
  all_goals simp [decodeOp]

end

/-! ### Operands -/

theorem exceptMap_eq_ok {ε α β : Type} {x : Except ε α} {g : α → β} {b : β} (h : x.map g = .ok b) :
    ∃ a, x = .ok a ∧ g a = b := by
  cases x with
  | error e => cases h
  | ok a => exact ⟨a, rfl, Except.ok.inj h⟩

theorem seqDecFits_iff {v : Variant} {sb : Frame} : Instr.seqDecFits v sb = true ↔ sb.length = seqWidth v := by
  match sb with
  | [] | [_] | [_, _] | [_, _, _] | [_, _, _, _] | _ :: _ :: _ :: _ :: _ :: _ =>
    cases v <;> simp [Instr.seqDecFits, seqWidth]

/-- A sequence operand is read as `q` exactly when it is `q`'s four bytes, and `q` is 0 for variant A (R134). -/
theorem seqOperand_eq_ok {v : Variant} {bs : Frame} {q : Seq32} (h : bs.length = 4) :
    seqOperand v bs = .ok q ↔ Instr.seqFits v q = true ∧ be 4 q.toNat = bs := by
  unfold seqOperand
  constructor
  · intro hq
    split at hq
    · cases hq
    · next hA =>
      cases hq
      refine ⟨?_, be_ofNat_ube h⟩
      by_cases hv : v = .a
      · have h0 : ube bs = 0 := Decidable.byContradiction fun hne => hA ⟨hv, hne⟩
        simp [Instr.seqFits, h0]
      · simp [Instr.seqFits, hv]
  · rintro ⟨hfits, rfl⟩
    rw [ofNat_ube_be 4, if_neg]
    rintro ⟨rfl, hne⟩
    obtain rfl : q = 0 := by simpa [Instr.seqFits] using hfits
    exact hne rfl

theorem timedKey_eq_some {r : Role} {v : Variant} {tv : TimedVariant} :
    timedKey r v = some tv ↔ r = .sender ∧ v = tv.variant := by
  cases r <;> cases v <;> cases tv <;> simp [timedKey, TimedVariant.variant]

/-- The timer's operations and TIMEOUT are those of a timed sender and have no operand (R250). -/
theorem decodeTimed_eq_ok {r : Role} {v : Variant} {op : Nat} {rest : Frame} {mk : TimedVariant → Instr} {i : Instr} :
    decodeTimed r v op rest mk = .ok i ↔
      ∃ tv : TimedVariant, r = .sender ∧ v = tv.variant ∧ rest = [] ∧ mk tv = i := by
  constructor
  · intro h
    unfold decodeTimed at h
    split at h
    · cases h
    · next tv hk =>
      obtain ⟨hr, hv⟩ := timedKey_eq_some.mp hk
      split at h
      · next hrest => cases h; exact ⟨tv, hr, hv, List.isEmpty_iff.mp hrest, rfl⟩
      · cases h
  · rintro ⟨tv, rfl, rfl, rfl, rfl⟩
    rw [decodeTimed, timedKey_eq_some.mpr ⟨rfl, rfl⟩]
    rfl

theorem cfgFits_iff {cfg : Cfg} :
    cfg.fits = true ↔ cfg.mss < 256 ^ 8 ∧ cfg.n < 256 ^ 4 ∧ cfg.timeoutTicks < 256 ^ 8 := by
  simp [Cfg.fits, and_assoc]

/-- RESET's numbers are read from its twenty operand bytes as they were written. -/
theorem decodeOp_reset_cfgBytes {cfg : Cfg} (h : cfg.fits = true) :
    decodeOp (opKey cfg.role cfg.variant 0xB :: cfgBytes cfg) = .ok (.reset cfg) := by
  obtain ⟨hm, hn, ht⟩ := cfgFits_iff.mp h
  have hmss : memRead (cfgBytes cfg) 0 8 = be 8 cfg.mss := by simp [memRead, cfgBytes]
  have hwin : memRead (cfgBytes cfg) 8 4 = be 4 cfg.n := by simp [memRead, cfgBytes]
  have hticks : memRead (cfgBytes cfg) 12 8 = be 8 cfg.timeoutTicks := rfl
  rw [decodeOp_reset, if_pos (by simp [cfgBytes]), hmss, hwin, hticks, ube_be_of_lt hm, ube_be_of_lt hn,
    ube_be_of_lt ht]

theorem cfgBytes_of_memRead {r : Role} {v : Variant} {rest : Frame} (h : rest.length = 20) :
    cfgBytes { variant := v, role := r, mss := ube (memRead rest 0 8), n := ube (memRead rest 8 4),
               timeoutTicks := ube (memRead rest 12 8) } = rest := by
  simp only [cfgBytes]
  rw [be_ube_memRead (by omega), be_ube_memRead (by omega), be_ube_memRead (by omega),
    memRead_append_memRead rest 8 4 8, memRead_append_memRead rest 0 8 12, memRead, List.drop_zero,
    List.take_of_length_le (by omega)]

/-! ### Packet rows (R90 to R92, R98) -/

section
variable {k kind c1 c0 : Byte} {p : Frame} (hk : k.toNat = kind.toNat)
include hk

theorem wireA_ofNat_ube : wireA kind (BitVec.ofNat 16 (ube [c1, c0])) p = k :: c1 :: c0 :: p := by
  rw [wireA, be_ofNat_ube (k := 2) rfl, ← BitVec.eq_of_toNat_eq hk]
  rfl

theorem wireBC_ofNat_ube {q : Byte} :
    wireBC kind q (BitVec.ofNat 16 (ube [c1, c0])) p = k :: q :: c1 :: c0 :: p := by
  rw [wireBC, be_ofNat_ube (k := 2) rfl, ← BitVec.eq_of_toNat_eq hk]
  rfl

theorem wireD_ofNat_ube {q3 q2 q1 q0 : Byte} :
    wireD kind (BitVec.ofNat 32 (ube [q3, q2, q1, q0])) (BitVec.ofNat 16 (ube [c1, c0])) p =
      k :: q3 :: q2 :: q1 :: q0 :: c1 :: c0 :: p := by
  rw [wireD, be_ofNat_ube (k := 4) rfl, be_ofNat_ube (k := 2) rfl, ← BitVec.eq_of_toNat_eq hk]
  rfl

end

/-! ### Decoder and encoder undo each other -/

/-- The slot has one meaning, and it is `i`: well-formed, under its own name, and with this slot as its encoding. -/
structure Instr.Owns (i : Instr) (slot : Slot) : Prop where
  wellFormed : i.wellFormed = true
  canonical : i.canonical = i
  encode : Sys2Proof.encode i = slot

theorem decodeFrame_owns {v : Variant} {f : Frame} {i : Instr} (h : decodeFrame v f = .ok i) : i.Owns (.wire f) := by
  unfold decodeFrame at h
  split at h
  · split at h <;> cases h
    all_goals next hk => exact ⟨rfl, rfl, congrArg Slot.wire (wireA_ofNat_ube hk)⟩
  · split at h <;> cases h
    all_goals next hk => exact ⟨rfl, rfl, congrArg Slot.wire (wireBC_ofNat_ube hk)⟩
  · split at h <;> cases h
    all_goals next hk => exact ⟨rfl, rfl, congrArg Slot.wire (wireBC_ofNat_ube hk)⟩
  · split at h <;> cases h
    all_goals next hk => exact ⟨rfl, rfl, congrArg Slot.wire (wireD_ofNat_ube hk)⟩
  · cases h

theorem decodeOp_owns {bs : Frame} {i : Instr} (h : decodeOp bs = .ok i) : i.Owns (.op bs) := by
  match bs with
  | [] => cases h
  | k :: rest =>
  by_cases hk : 128 ≤ k.toNat
  · simp [decodeOp, hk] at h
  obtain ⟨r, v, op, hop, rfl⟩ := exists_opKey hk
  match op with
  | 0x0 =>
    rw [decodeOp_csum16] at h
    cases h
    exact ⟨rfl, rfl, rfl⟩
  | 0x1 =>
    rw [decodeOp_seqEnc] at h
    split at h
    · next hlen =>
      obtain ⟨q, hq, rfl⟩ := exceptMap_eq_ok h
      obtain ⟨hfits, rfl⟩ := (seqOperand_eq_ok hlen).mp hq
      exact ⟨hfits, rfl, rfl⟩
    · cases h
  | 0x2 =>
    rw [decodeOp_seqDec] at h
    split at h
    · next hlen =>
      cases h
      exact ⟨seqDecFits_iff.mpr hlen, rfl, rfl⟩
    · cases h
  | 0x3 =>
    match rest with
    | [] | [_] | [_, _] | [_, _, _] | [_, _, _, _] => exact nomatch h.symm.trans (decodeOp_encode_short r v _ (by simp))
    | kind :: q3 :: q2 :: q1 :: q0 :: p =>
      rw [decodeOp_encode] at h
      obtain ⟨q, hq, rfl⟩ := exceptMap_eq_ok h
      obtain ⟨hfits, hbytes⟩ := (seqOperand_eq_ok rfl).mp hq
      exact ⟨hfits, rfl, by rw [encode, hbytes]; rfl⟩
  | 0x4 =>
    rw [decodeOp_decode] at h
    cases h
    exact ⟨rfl, rfl, rfl⟩
  | 0x5 =>
    rw [decodeOp_send] at h
    cases r <;> cases v <;> cases h <;> exact ⟨rfl, rfl, rfl⟩
  | 0x6 =>
    rw [decodeOp_rx] at h
    cases h
    cases r <;> cases v <;> exact ⟨rfl, rfl, rfl⟩
  | 0x7 =>
    rw [decodeOp_timeout] at h
    obtain ⟨tv, rfl, rfl, rfl, rfl⟩ := decodeTimed_eq_ok.mp h
    cases tv <;> exact ⟨rfl, rfl, rfl⟩
  | 0x8 =>
    rw [decodeOp_tmrArm] at h
    obtain ⟨tv, rfl, rfl, rfl, rfl⟩ := decodeTimed_eq_ok.mp h
    exact ⟨rfl, rfl, rfl⟩
  | 0x9 =>
    rw [decodeOp_tmrCancel] at h
    obtain ⟨tv, rfl, rfl, rfl, rfl⟩ := decodeTimed_eq_ok.mp h
    exact ⟨rfl, rfl, rfl⟩
  | 0xA =>
    rw [decodeOp_tmrTick] at h
    obtain ⟨tv, rfl, rfl, rfl, rfl⟩ := decodeTimed_eq_ok.mp h
    exact ⟨rfl, rfl, rfl⟩
  | 0xB =>
    rw [decodeOp_reset] at h
    split at h
    · next hlen =>
      cases h
      exact ⟨cfgFits_iff.mpr ⟨ube_memRead_lt .., ube_memRead_lt .., ube_memRead_lt ..⟩, rfl,
        by rw [encode, cfgBytes_of_memRead hlen]⟩
    · cases h
  | 0xC =>
    rw [decodeOp_shutdown] at h
    split at h
    · next hrest =>
      cases h
      rw [List.isEmpty_iff.mp hrest]
      exact ⟨rfl, rfl, rfl⟩
    · cases h
  | op + 13 =>
    rw [decodeOp_unassigned _ _ _ (by omega) hop] at h
    cases h

/-- Settles O12: a frame belongs to its packet row, an operation slot to the row of its key. -/
theorem decodedSlotEncodesBack : Obligations.DecodedSlotEncodesBack := by
  intro v slot i h
  obtain ⟨hw, hc, he⟩ : i.Owns slot := by
    cases slot with
    | wire f => exact decodeFrame_owns h
    | op bs => exact decodeOp_owns h
  exact ⟨hw, hc, he⟩

/-- Settles O11: the equation of the decoder for the instruction's code or packet row, with each operand read as it was
written. -/
theorem instructionRoundTrip : Obligations.InstructionRoundTrip := by
  intro i hw
  cases i with
  | aData ck _ | aAck ck _ | aNak ck _ | bData _ ck _ | bAck _ ck _ | bNak _ ck _
  | cData _ ck _ | cAck _ ck _ | cNak _ ck _ =>
    conv => rhs; rw [← ofNat_ube_be 2 ck]
    rfl
  | dData q ck _ | dAck q ck _ | dNak q ck _ =>
    conv => rhs; rw [← ofNat_ube_be 2 ck, ← ofNat_ube_be 4 q]
    rfl
  | csum16 r v bs => exact decodeOp_csum16 r v bs
  | seqEnc r v q =>
    have hlen : (be 4 q.toNat).length = 4 := be_length 4 _
    exact (decodeOp_seqEnc r v _).trans
      ((if_pos hlen).trans (congrArg (Except.map _) ((seqOperand_eq_ok hlen).mpr ⟨hw, rfl⟩)))
  | seqDec r v sb => exact (decodeOp_seqDec r v sb).trans (if_pos (seqDecFits_iff.mp hw))
  | encode r v k q p =>
    exact (decodeOp_encode r v k _ _ _ _ p).trans (congrArg (Except.map _) ((seqOperand_eq_ok rfl).mpr ⟨hw, rfl⟩))
  | decode r v f => exact decodeOp_decode r v f
  | saSend data => exact decodeOp_send .sender .a data
  | sbSend data => exact decodeOp_send .sender .b data
  | scSend data => exact decodeOp_send .sender .c data
  | sdSend data => exact decodeOp_send .sender .d data
  | saRx f => exact decodeOp_rx .sender .a f
  | raRx f => exact decodeOp_rx .receiver .a f
  | sbRx f => exact decodeOp_rx .sender .b f
  | rbRx f => exact decodeOp_rx .receiver .b f
  | scRx f => exact decodeOp_rx .sender .c f
  | rcRx f => exact decodeOp_rx .receiver .c f
  | sdRx f => exact decodeOp_rx .sender .d f
  | rdRx f => exact decodeOp_rx .receiver .d f
  | scTimeout => exact (decodeOp_timeout ..).trans (decodeTimed_eq_ok.mpr ⟨.c, rfl, rfl, rfl, rfl⟩)
  | sdTimeout => exact (decodeOp_timeout ..).trans (decodeTimed_eq_ok.mpr ⟨.d, rfl, rfl, rfl, rfl⟩)
  | tmrArm tv | tmrRestart tv => exact (decodeOp_tmrArm ..).trans (decodeTimed_eq_ok.mpr ⟨tv, rfl, rfl, rfl, rfl⟩)
  | tmrCancel tv => exact (decodeOp_tmrCancel ..).trans (decodeTimed_eq_ok.mpr ⟨tv, rfl, rfl, rfl, rfl⟩)
  | tmrTick tv => exact (decodeOp_tmrTick ..).trans (decodeTimed_eq_ok.mpr ⟨tv, rfl, rfl, rfl, rfl⟩)
  | reset cfg => exact decodeOp_reset_cfgBytes hw
  | shutdown r v => exact decodeOp_shutdown r v []

end Sys2Proof
end

section
/-! PROOFS. Packets (30_encoding.md): the checksum as a number, the packet rows with the right checksum while running is 1
(R97, R98), and that variants C and D transmit no NAK (R99, R103). -/

namespace Sys2Proof.Machine

/-! ### The checksum (R97, R130) -/

theorem checksum_fold_toNat (bs : Frame) (acc : Word16) :
    (bs.foldl (fun acc b => acc + b.setWidth 16) acc).toNat = (acc.toNat + (bs.map BitVec.toNat).sum) % 2 ^ 16 := by
  induction bs generalizing acc with
  | nil => simp [Nat.mod_eq_of_lt acc.isLt]
  | cons b bs ih =>
    have hb := b.isLt
    rw [List.foldl_cons, ih, BitVec.toNat_add, BitVec.toNat_setWidth, List.map_cons, List.sum_cons]
    omega

theorem csum16_toNat (bs : Frame) : (csum16 bs).toNat = 0xFFFF - (bs.map BitVec.toNat).sum % 2 ^ 16 := by
  rw [csum16, BitVec.toNat_not, checksum_fold_toNat, show (0 : Word16).toNat = 0 from rfl, Nat.zero_add]

theorem encodeInPlace_eq_encode (placeholder : Word16) (v : Variant) (kind : Byte) (q : Nat) (p : Frame) :
    Codec.encodeInPlace placeholder v kind q p = Codec.encode v kind q p := by
  have hA : (kind :: Codec.seqEnc v q).length = 1 + seqWidth v := by
    rw [List.length_cons, Codec.seqEnc_length, Nat.add_comm]
  rw [Codec.encodeInPlace, List.append_assoc, parts_covered v _ _ _ hA (be_length ..), memWrite, List.take_left' hA,
    ← List.append_assoc, List.drop_left' (by rw [List.length_append, hA, be_length, be_length])]
  rfl

/-- Settles O10: the checksum does not cover its own field, so what stands there while it is computed makes no difference. -/
theorem placeholderUnobservable : Obligations.PlaceholderUnobservable :=
  fun placeholder v kind q p _ => ⟨encodeInPlace_eq_encode placeholder v kind q p, encode_stored v kind q p⟩

/-- Settles O13, each word by evaluation. -/
theorem writtenWordsDecode : Obligations.WrittenWordsDecode :=
  ⟨rfl, rfl, rfl, rfl, rfl, rfl, rfl, rfl, rfl⟩

/-! ### A packet at the RX port -/

/-- A frame that arrives is the operand of the RX operation of its receiver's own role and variant (R100, R114). -/
theorem arrival_eq_exec_rxInstr {s : State} {role : Role} {v : Variant} (f : Frame)
    (hid : s.regs.identity = some (role, v)) : arrival f s = exec (rxInstr role v f) s := by
  unfold arrival
  split
  case h_1 hr => rw [hr] at hid; cases hid
  all_goals next hr => rw [hr] at hid; cases hid; rfl

/-- Settles O31: every packet row is an arrival. -/
theorem packetHandledUnderOwnLayout : Obligations.PacketHandledUnderOwnLayout := by
  intro s role v q q32 ck p hid
  have h (f : Frame) : arrival f s = exec (rxInstr role v f) s := arrival_eq_exec_rxInstr f hid
  exact ⟨h _, h _, h _, h _, h _, h _, h _, h _, h _, h _, h _, h _⟩

/-- While `s` runs, it gets a frame within the port's contract of variant `v` (R68), and DECODE reads the frame as `d`. -/
structure State.Receives (s : State) (v : Variant) (f : Frame) (d : Decoded) : Prop where
  running : s.running = true
  fits : f.length ≤ headerSize v + s.params.mss
  decoded : Codec.decode v f = .ok d

section
variable {s : State} {v : Variant} {f : Frame} {d : Decoded} (h : s.Receives v f d)
include h

theorem State.Receives.rxEvent_eq (k : Result) : rxEvent v f s k = k := by
  rw [rxEvent, whileRunning, if_pos h.running, if_pos h.fits]

theorem State.Receives.onDecoded_eq (k : Decoded → Result) : onDecoded v f s k = k d := by
  rw [onDecoded, h.decoded]

end

section
variable {s : State} {k : Byte} {ck : Word16} {p : Frame} (hrun : s.running = true) (hp : p.length ≤ s.params.mss)
include hrun hp

theorem receives_wireA (hck : ck.toNat = 0xFFFF - (k.toNat + (p.map BitVec.toNat).sum) % 2 ^ 16) :
    s.Receives .a (wireA k ck p) { kind := k, seq := none, checksumOk := true, payload := p } where
  running := hrun
  fits := by simp only [wireA, List.length_append, List.length_cons, be_length, headerSize, seqWidth]; omega
  decoded := by rw [decode_wireA, csum16_toNat, List.map_cons, List.sum_cons, ← hck, beq_self_eq_true]

theorem receives_wireBC {v : Variant} (hv : v = .b ∨ v = .c) {q : Byte}
    (hck : ck.toNat = 0xFFFF - (k.toNat + q.toNat + (p.map BitVec.toNat).sum) % 2 ^ 16) :
    s.Receives v (wireBC k q ck p) { kind := k, seq := some q.toNat, checksumOk := true, payload := p } where
  running := hrun
  fits := by
    have hw : seqWidth v = 1 := by obtain rfl | rfl := hv <;> rfl
    simp only [wireBC, List.length_append, List.length_cons, be_length, headerSize, hw]
    omega
  decoded := by
    rw [decode_wireBC v hv, csum16_toNat, List.map_cons, List.map_cons, List.sum_cons, List.sum_cons, ← Nat.add_assoc,
      ← hck, beq_self_eq_true]

theorem receives_wireD {q : Seq32}
    (hck : ck.toNat = 0xFFFF - (k.toNat + ((be 4 q.toNat ++ p).map BitVec.toNat).sum) % 2 ^ 16) :
    s.Receives .d (wireD k q ck p) { kind := k, seq := some q.toNat, checksumOk := true, payload := p } where
  running := hrun
  fits := by
    simp only [wireD, List.cons_append, List.length_append, List.length_cons, be_length, headerSize, seqWidth]; omega
  decoded := by rw [decode_wireD, csum16_toNat, List.map_cons, List.sum_cons, ← hck, beq_self_eq_true]

end

/-! ### What a valid packet of the wanted kind and sequence does -/

theorem toNat_ne_flipBit_toNat (c : BitVec 1) : c.toNat ≠ (flipBit c).toNat := by
  obtain rfl | rfl := BitVec.eq_zero_or_eq_one c <;> decide

theorem acknowledge_eq (r : SenderD) (q : Seq32) (s : State) : ∃ r' : SenderD,
    r'.base = q + 1 ∧ r'.nextToSend = r.nextToSend ∧
      acknowledge r q s = .next ((s.setRegs (.senderD r')).emit
        ((List.range ((q - r.base).toNat + 1)).map fun i => .done (some (r.base + BitVec.ofNat 32 i)))) := by
  simp only [acknowledge, seqRun_eq, List.map_map]
  refine ⟨_, ?_, ?_, rfl⟩ <;> rfl

section
variable {s : State} {f : Frame} {d : Decoded} (hok : d.checksumOk = true)
include hok

/-- R164 (c). -/
theorem arrival_receiverA_data (hr : s.regs = .receiverA) (hf : s.Receives .a f d) (hk : d.kind = kindData) :
    arrival f s = .next (s.emit [.deliver d.payload, .tx (Codec.control .a kindAck 0)]) := by
  simp [arrival, hr, execRaRx, hf.rxEvent_eq, hf.onDecoded_eq, hok, hk]

/-- R162 (e). -/
theorem arrival_senderA_ack {r : SenderA} (hr : s.regs = .senderA r) (hph : r.phase = .awaitingResponse)
    (hf : s.Receives .a f d) (hk : d.kind = kindAck) :
    arrival f s = .next ((s.setRegs (.senderA { r with phase := .idle })).emit [.done none]) := by
  simp [arrival, hr, execSaRx, hph, hf.rxEvent_eq, hf.onDecoded_eq, hok, hk, kindAck, kindNak]

/-- R162 (d). -/
theorem arrival_senderA_nak {r : SenderA} (hr : s.regs = .senderA r) (hph : r.phase = .awaitingResponse)
    (hf : s.Receives .a f d) (hk : d.kind = kindNak) : arrival f s = .next (s.emit [.tx r.lastPacket]) := by
  simp [arrival, hr, execSaRx, hph, hf.rxEvent_eq, hf.onDecoded_eq, hok, hk]

/-- R184 (d). -/
theorem arrival_receiverB_data {e : BitVec 1} (hr : s.regs = .receiverB e) (hf : s.Receives .b f d)
    (hk : d.kind = kindData) (hq : d.seq = some e.toNat) :
    arrival f s = .next ((s.setRegs (.receiverB (flipBit e))).emit
      [.deliver d.payload, .tx (Codec.control .b kindAck e.toNat)]) := by
  simp [arrival, hr, execRbRx, hf.rxEvent_eq, hf.onDecoded_eq, hok, hk, hq]

/-- R182 (e). -/
theorem arrival_senderB_ack {r : SenderB} (hr : s.regs = .senderB r) (hph : r.phase = .waitAck)
    (hf : s.Receives .b f d) (hk : d.kind = kindAck) (hq : d.seq = some r.currentSequence.toNat) :
    arrival f s = .next ((s.setRegs (.senderB { r with
      currentSequence := flipBit r.currentSequence, phase := .ready })).emit [.done none]) := by
  simp [arrival, hr, execSbRx, hph, hf.rxEvent_eq, hf.onDecoded_eq, hok, hk, hq, toNat_ne_flipBit_toNat]

/-- R182 (f). -/
theorem arrival_senderB_nak {r : SenderB} (hr : s.regs = .senderB r) (hph : r.phase = .waitAck)
    (hf : s.Receives .b f d) (hk : d.kind = kindNak) (hq : d.seq = some r.currentSequence.toNat) :
    arrival f s = .next (s.emit [.tx r.lastPacket]) := by
  simp [arrival, hr, execSbRx, hph, hf.rxEvent_eq, hf.onDecoded_eq, hok, hk, hq, toNat_ne_flipBit_toNat, kindAck, kindNak]

/-- R206 (d). -/
theorem arrival_receiverC_data {e : BitVec 8} (hr : s.regs = .receiverC e) (hf : s.Receives .c f d)
    (hk : d.kind = kindData) (hq : d.seq = some e.toNat) :
    arrival f s = .next ((s.setRegs (.receiverC (e + 1))).emit
      [.deliver d.payload, .tx (Codec.control .c kindAck e.toNat)]) := by
  simp [arrival, hr, execRcRx, hf.rxEvent_eq, hf.onDecoded_eq, hok, hk, hq]

/-- R202 (c). -/
theorem arrival_senderC_ack {r : SenderC} (hr : s.regs = .senderC r) (hph : r.phase = .waitAck)
    (hf : s.Receives .c f d) (hk : d.kind = kindAck) (hq : d.seq = some r.currentSequence.toNat) :
    arrival f s = .next ((s.setRegs (.senderC { r with
      phase := .ready, currentSequence := r.currentSequence + 1
      timer := r.timer.cancel (unspecifiedRemaining s.params.timeoutTicks s.draws) })).emit [.done none]) := by
  simp [arrival, hr, execScRx, hph, hf.rxEvent_eq, hf.onDecoded_eq, hok, hk, hq]

/-- R228 (d). -/
theorem arrival_receiverD_data {e : Seq32} (hr : s.regs = .receiverD e) (hf : s.Receives .d f d)
    (hk : d.kind = kindData) (hq : d.seq = some e.toNat) :
    arrival f s = .next ((s.setRegs (.receiverD (e + 1))).emit
      [.deliver d.payload, .tx (Codec.control .d kindAck e.toNat)]) := by
  simp [arrival, hr, execRdRx, hf.rxEvent_eq, hf.onDecoded_eq, hok, hk, hq]

/-- R222 (e). -/
theorem arrival_senderD_ack {r : SenderD} {q : Seq32} (hr : s.regs = .senderD r) (hf : s.Receives .d f d)
    (hk : d.kind = kindAck) (hq : d.seq = some q.toNat) (hw : r.insideWindow q = true) :
    arrival f s = acknowledge r q s := by
  simp [arrival, hr, execSdRx, hf.rxEvent_eq, hf.onDecoded_eq, hok, hk, hq, hw]

/-- NAK is a legal kind that neither role of a timed variant acts on (R103, R202 (d), R206 (c), R222 (c), R228 (c)). -/
theorem arrival_nak_of_timed {role : Role} {v : TimedVariant} (hid : s.regs.identity = some (role, v.variant))
    (hf : s.Receives v.variant f d) (hk : d.kind = kindNak) : arrival f s = .next s := by
  cases v <;> simp only [TimedVariant.variant] at hf hid <;> cases hr : s.regs <;> rw [hr] at hid <;> cases hid
  case c.senderC.refl r =>
    cases hph : r.phase <;>
      simp [arrival, hr, execScRx, hph, hf.rxEvent_eq, hf.onDecoded_eq, hk, kindAck, kindNak]
  case c.receiverC.refl e => simp [arrival, hr, execRcRx, hf.rxEvent_eq, hf.onDecoded_eq, hok, hk, kindData, kindNak]
  case d.senderD.refl r => simp [arrival, hr, execSdRx, hf.rxEvent_eq, hf.onDecoded_eq, hok, hk, kindAck, kindNak]
  case d.receiverD.refl e => simp [arrival, hr, execRdRx, hf.rxEvent_eq, hf.onDecoded_eq, hok, hk, kindData, kindNak]

end

/-! ### Packets with the right checksum take effect -/

/-- Settles O32: the packet's frame is received and valid (`receives_wireA`), and the handler's branch for its kind runs. -/
theorem variantAPacketsTakeEffect : Obligations.VariantAPacketsTakeEffect := by
  intro s ck p hrun hp
  refine ⟨fun hr hck => ?_, fun r hr hph => ⟨fun hck => ?_, fun hck => ?_⟩⟩
  · exact arrival_receiverA_data rfl hr (receives_wireA (k := 0) hrun hp hck) rfl
  · exact arrival_senderA_ack rfl hr hph (receives_wireA (k := 1) hrun hp hck) rfl
  · exact arrival_senderA_nak rfl hr hph (receives_wireA (k := 2) hrun hp hck) rfl

/-- Settles O33: as for variant A, with a sequence byte that is the one-bit sequence as a number. -/
theorem variantBPacketsTakeEffect : Obligations.VariantBPacketsTakeEffect := by
  intro s q ck p hrun hp
  refine ⟨fun e hr hq hck => ?_, fun r hr hph hq => ⟨fun hck => ?_, fun hck => ?_⟩⟩
  · exact arrival_receiverB_data rfl hr (receives_wireBC (k := 0) hrun hp (.inl rfl) hck) rfl (congrArg some hq)
  · exact arrival_senderB_ack rfl hr hph (receives_wireBC (k := 1) hrun hp (.inl rfl) hck) rfl (congrArg some hq)
  · exact arrival_senderB_nak rfl hr hph (receives_wireBC (k := 2) hrun hp (.inl rfl) hck) rfl (congrArg some hq)

/-- Settles O34: as for variant B; the timer that C.ACK leaves is the cancelled one, and C.NAK is of a kind that nobody
wants. -/
theorem variantCPacketsTakeEffect : Obligations.VariantCPacketsTakeEffect := by
  intro s q ck p hrun hp
  refine ⟨?_, ?_, fun hid hck => ?_⟩
  · rintro e hr rfl hck
    exact arrival_receiverC_data rfl hr (receives_wireBC (k := 0) hrun hp (.inr rfl) hck) rfl rfl
  · rintro r hr hph rfl hck
    exact ⟨_, Timer.cancel_armed _ _, Timer.cancel_expired _ _,
      arrival_senderC_ack rfl hr hph (receives_wireBC (k := 1) hrun hp (.inr rfl) hck) rfl rfl⟩
  · have hf := receives_wireBC (k := 2) hrun hp (.inr rfl) hck
    exact hid.elim (arrival_nak_of_timed (v := .c) rfl · hf rfl) (arrival_nak_of_timed (v := .c) rfl · hf rfl)

/-- Settles O35: D.ACK inside the window acknowledges the run of sequences from `base` to its own. -/
theorem variantDPacketsTakeEffect : Obligations.VariantDPacketsTakeEffect := by
  intro s q ck p hrun hp
  refine ⟨?_, fun r hr hw hck => ?_, fun hid hck => ?_⟩
  · rintro e hr rfl hck
    exact arrival_receiverD_data rfl hr (receives_wireD (k := 0) hrun hp hck) rfl rfl
  · obtain ⟨r', hb, hn, hack⟩ := acknowledge_eq r q s
    have hin : r.insideWindow q = true := (insideWindow_eq_true r q).mpr hw
    exact ⟨r', hb, hn, (arrival_senderD_ack rfl hr (receives_wireD (k := 1) hrun hp hck) rfl rfl hin).trans hack⟩
  · have hf := receives_wireD (k := 2) hrun hp hck
    exact hid.elim (arrival_nak_of_timed (v := .d) rfl · hf rfl) (arrival_nak_of_timed (v := .d) rfl · hf rfl)

/-! ### Variants C and D transmit no NAK (R99, R103) -/

theorem transmitted_of_outputs {s t : State} {os : List Output} (h : t.outputs = s.outputs ++ os) :
    transmitted s t = os.filterMap Output.frame := by
  rw [transmitted, h, List.drop_left]

theorem transmitted_of_outputs_eq {s t : State} (h : t.outputs = s.outputs) : transmitted s t = [] :=
  transmitted_of_outputs (os := []) (h.trans (List.append_nil _).symm)

section
variable (s : State)

@[simp] theorem transmitted_setRegs (r : Regs) : transmitted s (s.setRegs r) = [] := transmitted_of_outputs_eq rfl

@[simp] theorem transmitted_emit (os : List Output) : transmitted s (s.emit os) = os.filterMap Output.frame :=
  transmitted_of_outputs rfl

@[simp] theorem transmitted_setRegs_emit (r : Regs) (os : List Output) :
    transmitted s ((s.setRegs r).emit os) = os.filterMap Output.frame :=
  transmitted_of_outputs rfl

end

theorem head_encode_ne_nak {v : Variant} {k : Byte} {q : Nat} {p : Frame} (hk : k ≠ kindNak) :
    (Codec.encode v k q p).head? ≠ some kindNak := mt Option.some.inj hk

theorem IsDataFrame.head_ne_nak {v : Variant} {q mss : Nat} {f : Frame} (h : IsDataFrame v q mss f) :
    f.head? ≠ some kindNak := by
  obtain ⟨p, _, rfl⟩ := h
  exact head_encode_ne_nak (by decide)

/-- The frames that a variant-D sender reads from its window are DATA frames (R226 (3)). -/
theorem SenderD.BufferIsWindow.head_ne_nak {r : SenderD} {mss : Nat} (hw : r.BufferIsWindow mss) {qs : List Seq32}
    {fs : List Frame} (h : r.buffer.readAll qs = .ok fs) {f : Frame} (hf : f ∈ fs) : f.head? ≠ some kindNak := by
  have hmem : some f ∈ qs.map r.buffer.read := (Memory.readAll_eq_ok _ _ _).mp h ▸ List.mem_map_of_mem hf
  obtain ⟨q, _, hq⟩ := List.mem_map.mp hmem
  have hwin := hw q
  rw [hq] at hwin
  exact hwin.2.head_ne_nak

/-- What variants C and D transmit are new DATA frames, the stored ones of a sound state, and ACK frames. -/
theorem Effect.head_ne_nak {s t : State} {role : Role} {v : TimedVariant} (e : Effect s t) (hs : s.Sound)
    (hrun : s.running = true) (hid : s.regs.identity = some (role, v.variant)) {f : Frame} (hf : f ∈ transmitted s t) :
    f.head? ≠ some kindNak := by
  cases e with
  | same h | held _ h _ | result _ h | cTimeoutIdle _ _ _ _ _ h | dTimeoutIdle _ _ _ _ _ h | shutdown h =>
    have hnone : transmitted s t = [] := transmitted_of_outputs_eq (by simp [h])
    rw [hnone] at hf
    cases hf
  | framingError _ h | cDone _ _ _ _ h =>
    subst h
    simp [Output.frame] at hf
  | dAck r q _ _ _ h =>
    obtain ⟨r', -, -, hack⟩ := acknowledge_eq r q s
    cases h.symm.trans hack
    simp [Output.frame] at hf
  | aSend _ _ hr _ _ _ | aRetransmit _ hr _ _ | aDone _ hr _ _ | aReply _ hr _ | aDeliver _ hr _ | bSend _ _ hr _ _ _
  | bRetransmit _ hr _ _ | bDone _ hr _ _ | bReply _ _ _ hr _ | bDeliver _ _ hr _ =>
    rw [hr] at hid
    cases v <;> cases hid
  | cSend _ _ _ _ _ _ h | dSend _ _ _ _ _ _ h | cReply _ _ h | cDeliver _ _ _ h | dReply _ _ h | dDeliver _ _ _ h =>
    subst h
    simp only [transmitted_setRegs_emit, transmitted_emit, List.filterMap, Output.frame, List.mem_singleton] at hf
    subst hf
    exact head_encode_ne_nak (by decide)
  | cTimeout r hr _ _ hp h =>
    subst h
    simp only [State.Sound, hr] at hs
    obtain ⟨-, -, hstored⟩ := hs
    simp only [transmitted_setRegs_emit, List.filterMap, Output.frame, List.mem_singleton] at hf
    subst hf
    exact (hstored hp).head_ne_nak
  | dTimeout r fs hr _ _ _ hfs h =>
    subst h
    simp only [State.Sound, hr] at hs
    obtain ⟨-, -, -, -, -, -, hw⟩ := hs
    have hmem : f ∈ fs := by simpa [List.filterMap_map, Function.comp_def, Output.frame] using hf
    exact (hw hrun).head_ne_nak hfs hmem

/-- Settles O53: RESET and the timer operations transmit nothing; what the rest transmit is `Effect.head_ne_nak`. -/
theorem nakNeverSentInCAndD : Obligations.NakNeverSentInCAndD := by
  intro i s t role v hs hrun hid hv h f hf
  obtain ⟨cfg, rfl⟩ | ⟨tv, g, _, h⟩ | e := exec_effect h
  · have hnone : transmitted s t = [] := transmitted_of_outputs_eq (by simp [(execReset_eq_next h).2])
    rw [hnone] at hf
    cases hf
  · obtain ⟨r, _, hr, rfl⟩ | ⟨r, _, hr, rfl⟩ := onTimer_eq_next h <;> simp at hf
  · obtain rfl | rfl := hv
    · exact e.head_ne_nak (v := .c) hs hrun hid hf
    · exact e.head_ne_nak (v := .d) hs hrun hid hf

end Sys2Proof.Machine
end

section
/-! PROOFS. Codec (40_codec.md): the five codec functions on their domains, and a frame's validity as one congruence on its
covered bytes and stored checksum (R130, R132, R144), from which R150 to R153 follow. -/

namespace Sys2Proof.Machine

/-! ### CSUM16 and the sequence coders (R130, R134, R136) -/

/-- Settles O1: `csum16_toNat` reads the sum of 16-bit words as a number. -/
theorem checksumIsComplementedByteSum : Obligations.ChecksumIsComplementedByteSum :=
  fun _ _ bs _ => ⟨csum16 bs, rfl, csum16_toNat bs⟩

/-- The bytes of a machine word, most significant first, are its slices at multiples of 8. -/
theorem be_succ_toNat {w : Nat} (k : Nat) (x : BitVec w) :
    be (k + 1) x.toNat = x.extractLsb' (8 * k) 8 :: be k x.toNat := by
  have hb : BitVec.ofNat 8 (x.toNat / 256 ^ k) = x.extractLsb' (8 * k) 8 := by
    apply BitVec.eq_of_toNat_eq
    rw [BitVec.toNat_ofNat, BitVec.extractLsb'_toNat, Nat.shiftRight_eq_div_pow, Nat.pow_mul]
  rw [be, hb]

section
variable {v : Variant} {q : Seq32} (r : Role) (s : State)

theorem exec_seqEnc_of_inDomain (h : seqInDomain v q.toNat = true) :
    exec (.seqEnc r v q) s = .next (s.setResult (.bytes (Codec.seqEnc v q.toNat))) := if_pos h

theorem exec_seqEnc_of_not_inDomain (h : ¬ seqInDomain v q.toNat = true) :
    exec (.seqEnc r v q) s = .refused .sequenceOutsideDomain := if_neg h

theorem exec_seqDec_of_length {sb : Frame} (h : sb.length = seqWidth v) :
    exec (.seqDec r v sb) s = .next (s.setResult (.sequence (Codec.seqDec v sb))) := if_pos h

end

/-- Settles O2: the bytes by `be_succ_toNat`, the refusals by `seqInDomain`. -/
theorem sequenceEncoderByVariant : Obligations.SequenceEncoderByVariant := by
  intro r q s
  have one_byte : be 1 q.toNat = [q.extractLsb' 0 8] := be_succ_toNat 0 q
  have four_bytes :
      be 4 q.toNat = [q.extractLsb' 24 8, q.extractLsb' 16 8, q.extractLsb' 8 8, q.extractLsb' 0 8] := by
    rw [be_succ_toNat, be_succ_toNat, be_succ_toNat, be_succ_toNat]
    rfl
  refine ⟨rfl, fun h => ?_, fun h => ?_, fun h => ?_, fun h => ?_, ?_⟩
  · rw [← one_byte]
    exact exec_seqEnc_of_inDomain (v := .b) r s (decide_eq_true h)
  · exact exec_seqEnc_of_not_inDomain (v := .b) r s (mt of_decide_eq_true (Nat.not_lt.mpr h))
  · rw [← one_byte]
    exact exec_seqEnc_of_inDomain (v := .c) r s (decide_eq_true h)
  · exact exec_seqEnc_of_not_inDomain (v := .c) r s (mt of_decide_eq_true (Nat.not_lt.mpr h))
  · rw [← four_bytes]
    exact exec_seqEnc_of_inDomain (v := .d) r s (decide_eq_true q.isLt)

theorem seqDec_eq (v : Variant) (sb : Frame) : Codec.seqDec v sb = if v = .a then none else some (ube sb) := by
  cases v <;> rfl

theorem seqDec_seqEnc {v : Variant} {q : Nat} (h : seqInDomain v q = true) :
    Codec.seqDec v (Codec.seqEnc v q) = if v = .a then none else some q := by
  cases v with
  | a => rfl
  | b => exact congrArg some (ube_be_of_lt (k := 1) (Nat.lt_trans (of_decide_eq_true h) (by decide)))
  | c => exact congrArg some (ube_be_of_lt (k := 1) (of_decide_eq_true h))
  | d => exact congrArg some (ube_be_of_lt (k := 4) (of_decide_eq_true h))

/-- Settles O3: the byte cases by the definition of SEQ_DEC, the inverse law by `seqDec_seqEnc`. -/
theorem sequenceDecoderUnmasked : Obligations.SequenceDecoderUnmasked := by
  refine ⟨fun r b3 b2 b1 b0 s => ?_, fun q => ⟨fun h => ?_, fun h => ?_, fun h => ?_⟩⟩
  · have one_byte : ube [b0] = b0.toNat := by simp [ube_cons]
    have four_bytes :
        ube [b3, b2, b1, b0] = b3.toNat * 2 ^ 24 + b2.toNat * 2 ^ 16 + b1.toNat * 2 ^ 8 + b0.toNat := by
      simp [ube_cons, Nat.add_assoc]
    rw [← four_bytes, ← one_byte]
    exact ⟨rfl, exec_seqDec_of_length (v := .b) r s rfl, exec_seqDec_of_length (v := .c) r s rfl,
      exec_seqDec_of_length (v := .d) r s rfl⟩
  · exact seqDec_seqEnc (v := .b) (decide_eq_true h)
  · exact seqDec_seqEnc (v := .c) (decide_eq_true h)
  · exact seqDec_seqEnc (v := .d) (decide_eq_true h)

/-! ### ENCODE and DECODE (R140, R144, R150) -/

theorem identity_eq_none {r : Regs} : r.identity = none ↔ r = .unconfigured := by
  cases r <;> simp [Regs.identity]

theorem exec_encode_of_inDomain (r : Role) {v : Variant} {kind : Byte} {q : Seq32} {p : Frame} {s : State}
    (hr : s.regs ≠ .unconfigured) (hk : kind.toNat ≤ 2) (hq : seqInDomain v q.toNat = true)
    (hp : p.length ≤ s.params.mss) :
    exec (.encode r v kind q p) s = .next (s.setResult (.bytes (Codec.encode v kind q.toNat p))) := by
  change execEncode v kind q p s = _
  rw [execEncode, if_neg (mt identity_eq_none.mp hr), if_neg (not_not_intro hk), if_neg (by simp [hq]),
    if_neg (not_not_intro hp)]

/-- Settles O4: the two checksum bytes are the slices of `be_succ_toNat`. -/
theorem encodeLaysOutFrame : Obligations.EncodeLaysOutFrame := by
  intro r v kind q p s hr hk hq hp
  refine ⟨csum16 (kind :: (Codec.seqEnc v q.toNat ++ p)), csum16_toNat _, ?_⟩
  rw [exec_encode_of_inDomain r hr hk hq hp, Codec.encode, be_succ_toNat, be_succ_toNat]
  rfl

theorem exec_decode_of_ok (r : Role) {v : Variant} {f : Frame} {d : Decoded} (s : State)
    (h : Codec.decode v f = .ok d) : exec (.decode r v f) s = .next (s.setResult (.packet d)) := by
  change execDecode v f s = _
  rw [execDecode, onDecoded, h]

theorem exec_decode_of_error (r : Role) {v : Variant} {f : Frame} {n : Nat} (s : State)
    (h : Codec.decode v f = .error n) : exec (.decode r v f) s = .next (s.emit [.framingError n]) := by
  change execDecode v f s = _
  rw [execDecode, onDecoded, h]
  rfl

/-- Settles O5: `decode_short` and `decode_long`, with the fields' offsets written out. -/
theorem decodeReadsFields : Obligations.DecodeReadsFields := by
  intro r v f s
  refine ⟨fun h => exec_decode_of_error r s (decode_short v f h),
    fun h => ⟨_, exec_decode_of_ok r s (decode_long v f h), ?_, seqDec_eq v _, rfl, ?_⟩⟩
  · cases f with
    | nil => simp at h
    | cons k _ => rfl
  · have stored : headerSize v - 2 = 1 + seqWidth v := by rw [headerSize, Nat.add_sub_cancel]
    rw [beq_iff_eq, csum16_toNat, stored, eq_comm]
    rfl

theorem headerSize_le_length_encode (v : Variant) (kind : Byte) (q : Nat) (p : Frame) :
    headerSize v ≤ (Codec.encode v kind q p).length :=
  Nat.le.intro (Codec.encode_length v kind q p).symm

/-- DECODE undoes ENCODE whatever the kind byte: both pass it through unread (R146 (d)). -/
theorem decode_encode {v : Variant} {q : Nat} (kind : Byte) (p : Frame) (h : seqInDomain v q = true) :
    Codec.decode v (Codec.encode v kind q p) =
      .ok { kind := kind, seq := (if v = .a then none else some q), checksumOk := true, payload := p } := by
  rw [decode_long v _ (headerSize_le_length_encode v kind q p), encode_covered, encode_stored, encode_seq, encode_drop,
    seqDec_seqEnc h, ube_be_of_lt (BitVec.isLt _), beq_self_eq_true]
  rfl

/-- Settles O6 by `decode_encode`, which asks nothing of the kind. -/
theorem codecRoundTrip : Obligations.CodecRoundTrip := fun _ kind _ p _ h => decode_encode kind p h

/-- Settles O9: injective as DECODE undoes ENCODE; the frame of kind 3 is ENCODE's own text on kind 3. -/
theorem encodeInjectiveDecodeTotal : Obligations.EncodeInjectiveDecodeTotal := by
  refine ⟨fun v k k' q q' p p' hq hq' heq => ?_, fun v f => ⟨fun h => ⟨_, decode_long v f h⟩, decode_short v f⟩,
    fun v => ⟨_, _, decode_encode (q := 0) 3 [] (by cases v <;> rfl), rfl, Nat.le_refl 3⟩⟩
  have records := (decode_encode k p hq).symm.trans (heq ▸ decode_encode k' p' hq')
  injection records with records
  injection records with hkind hseq _ hpayload
  exact ⟨hkind, hpayload, fun hv => by simpa [hv] using hseq⟩

/-! ### Validity of a frame is one congruence (R151, R152) -/

/-- What the check of a frame depends on: the covered bytes' total and the stored checksum, added. -/
def checkedTotal (v : Variant) (f : Frame) : Nat :=
  ((covered v f).map BitVec.toNat).sum + ube (memRead f (headerSize v - 2) 2)

theorem checksumOk_iff_checkedTotal {v : Variant} {f : Frame} {d : Decoded} (h : Codec.decode v f = .ok d) :
    d.checksumOk = true ↔ checkedTotal v f % 2 ^ 16 = 0xFFFF := by
  have hlong : headerSize v ≤ f.length := Nat.le_of_not_lt fun hshort => by
    rw [decode_short v f hshort] at h
    cases h
  rw [decode_long v f hlong] at h
  cases h
  have hstored : ube (memRead f (headerSize v - 2) 2) < 256 ^ 2 := ube_memRead_lt f _ 2
  rw [beq_iff_eq, csum16_toNat, checkedTotal]
  omega

/-- Settles O8: both checks are the same congruence on equal residues. -/
theorem checksumSeesOnlyTheTotal : Obligations.ChecksumSeesOnlyTheTotal := by
  intro v f g d e hd he htotal
  rw [Bool.eq_iff_iff, checksumOk_iff_checkedTotal hd, checksumOk_iff_checkedTotal he, checkedTotal, htotal,
    checkedTotal]

theorem byteSum_set {bs : Frame} {i : Nat} {c : Byte} (h : bs[i]? = some c) (b : Byte) :
    ((bs.set i b).map BitVec.toNat).sum + c.toNat = (bs.map BitVec.toNat).sum + b.toNat := by
  induction bs generalizing i with
  | nil => cases h
  | cons x xs ih =>
    cases i with
    | zero =>
      cases h
      rw [List.set_cons_zero, List.map_cons, List.sum_cons, List.map_cons, List.sum_cons]
      omega
    | succ i =>
      have htail := ih (i := i) h
      rw [List.set_cons_succ, List.map_cons, List.sum_cons, List.map_cons, List.sum_cons]
      omega

/-- The high byte of a two-byte field weighs 256, the low byte 1. -/
theorem ube_set_of_length_two {bs : Frame} (hbs : bs.length = 2) {i : Nat} {c : Byte} (h : bs[i]? = some c) (b : Byte) :
    ∃ w, (w = 1 ∨ w = 256) ∧ ube (bs.set i b) + w * c.toNat = ube bs + w * b.toNat := by
  have ube_pair (x y : Byte) : ube [x, y] = x.toNat * 256 + y.toNat := by simp [ube_cons]
  match bs, hbs, i, h with
  | [_, _], _, 0, h =>
    cases h
    exact ⟨256, .inr rfl, by rw [List.set_cons_zero, ube_pair, ube_pair]; omega⟩
  | [_, _], _, 1, h =>
    cases h
    exact ⟨1, .inl rfl, by rw [List.set_cons_succ, List.set_cons_zero, ube_pair, ube_pair]; omega⟩

theorem exists_parts {v : Variant} {f : Frame} (h : headerSize v ≤ f.length) :
    ∃ A C P, A.length = 1 + seqWidth v ∧ C.length = 2 ∧ f = A ++ (C ++ P) := by
  refine ⟨f.take (1 + seqWidth v), (f.drop (1 + seqWidth v)).take 2, (f.drop (1 + seqWidth v)).drop 2, ?_, ?_, ?_⟩
  · rw [headerSize] at h
    rw [List.length_take]
    omega
  · rw [headerSize] at h
    rw [List.length_take, List.length_drop]
    omega
  · rw [List.take_append_drop, List.take_append_drop]

theorem checkedTotal_parts {v : Variant} {A C P : Frame} (hA : A.length = 1 + seqWidth v) (hC : C.length = 2) :
    checkedTotal v (A ++ (C ++ P)) = (A.map BitVec.toNat).sum + (P.map BitVec.toNat).sum + ube C := by
  rw [checkedTotal, parts_covered v A C P hA hC, parts_stored v A C P hA hC, List.map_append, List.sum_append]

/-- Byte `b` in place of `c` moves a frame's total by their difference, 256 times it in the checksum's high byte. -/
theorem checkedTotal_set {v : Variant} {f : Frame} {i : Nat} {c : Byte} (hlong : headerSize v ≤ f.length)
    (h : f[i]? = some c) (b : Byte) : ∃ w, (w = 1 ∨ w = 256) ∧
      checkedTotal v (f.set i b) + w * c.toNat = checkedTotal v f + w * b.toNat := by
  obtain ⟨A, C, P, hA, hC, rfl⟩ := exists_parts hlong
  rw [List.getElem?_append, List.getElem?_append] at h
  rw [List.set_append, List.set_append, checkedTotal_parts hA hC]
  split at h
  case isTrue inKindOrSeq =>
    rw [if_pos inKindOrSeq, checkedTotal_parts (by rwa [List.length_set]) hC]
    have hsum := byteSum_set h b
    exact ⟨1, .inl rfl, by omega⟩
  case isFalse notInKindOrSeq =>
    rw [if_neg notInKindOrSeq]
    split at h
    case isTrue inChecksum =>
      rw [if_pos inChecksum, checkedTotal_parts hA (by rwa [List.length_set])]
      obtain ⟨w, hw, hfield⟩ := ube_set_of_length_two hC h b
      exact ⟨w, hw, by omega⟩
    case isFalse inPayload =>
      rw [if_neg inPayload, checkedTotal_parts hA hC]
      have hsum := byteSum_set h b
      exact ⟨1, .inl rfl, by omega⟩

/-- Settles O7: one byte's change moves the total by less than 2^16, and not by 0. -/
theorem singleByteChangeDetected : Obligations.SingleByteChangeDetected := by
  intro v kind q p i b _ hq hi hne
  have hlong := headerSize_le_length_encode v kind q p
  obtain ⟨c, hc⟩ : ∃ c, (Codec.encode v kind q p)[i]? = some c := ⟨_, List.getElem?_eq_getElem hi⟩
  have hcb : c.toNat ≠ b.toNat := fun heq => hne (hc.trans (congrArg some (BitVec.eq_of_toNat_eq heq)))
  have hvalid := (checksumOk_iff_checkedTotal (decode_encode kind p hq)).mp rfl
  have hdec := decode_long v ((Codec.encode v kind q p).set i b) (by rwa [List.length_set])
  refine ⟨_, hdec, Bool.eq_false_iff.mpr (mt (checksumOk_iff_checkedTotal hdec).mp fun hset => ?_)⟩
  have hc256 := c.isLt
  have hb256 := b.isLt
  obtain ⟨w, rfl | rfl, htotal⟩ := checkedTotal_set hlong hc b <;> omega

end Sys2Proof.Machine
end

section
/-! PROOFS. Variant A (41_variant_A_stop_and_wait.md): what the guards answer to SEND and RX, the handlers of both roles, that
only a received frame moves a waiting sender of variant A or B (R168, R188), and the payload delivered twice (R166). -/

namespace Sys2Proof.Machine

/-! ### The guards while running is 1 -/

section
variable {s : State} (hrun : s.running = true)
include hrun

theorem sendEvent_of_ready {data : Frame} (hl : data.length ≤ s.params.mss) (accept : Result) :
    sendEvent true data s accept = accept := by
  rw [sendEvent, whileRunning, if_pos hrun, if_pos rfl, if_pos hl]

theorem sendEvent_of_tooLong {data : Frame} (hl : s.params.mss < data.length) (accept : Result) :
    sendEvent true data s accept = .refused .payloadTooLong := by
  rw [sendEvent, whileRunning, if_pos hrun, if_pos rfl, if_neg (Nat.not_le.mpr hl)]

theorem sendEvent_of_not_ready (data : Frame) (accept : Result) :
    sendEvent false data s accept = .next (s.hold data) := by
  rw [sendEvent, whileRunning, if_pos hrun, if_neg Bool.false_ne_true]

theorem rxEvent_of_fits {v : Variant} {f : Frame} (hf : f.length ≤ headerSize v + s.params.mss) (handle : Result) :
    rxEvent v f s handle = handle := by
  rw [rxEvent, whileRunning, if_pos hrun, if_pos hf]

/-- A held SEND of a running sender is offered again exactly when the sender can accept it (R17, R276 (c)). -/
theorem available_held_iff {v : Variant} (hid : s.regs.identity = some (.sender, v)) (hheld : s.held ≠ []) :
    s.available .held = true ↔ s.canAccept = true := by
  have hsend : (s.regs.sendInstr []).isSome = true := by
    rw [Regs.sendInstr, hid]
    cases v <;> rfl
  simp [State.available, hsend, hheld, hrun]

/-- ENCODE's frame of a payload within MSS is received valid, with the fields it was built from. -/
theorem receives_encode {v : Variant} {q : Nat} (kind : Byte) {p : Frame} (hq : seqInDomain v q = true)
    (hp : p.length ≤ s.params.mss) :
    s.Receives v (Codec.encode v kind q p)
      { kind := kind, seq := (if v = .a then none else some q), checksumOk := true, payload := p } where
  running := hrun
  fits := by rw [Codec.encode_length]; exact Nat.add_le_add_left hp _
  decoded := decode_encode kind p hq

end

theorem onDecoded_of_short {v : Variant} {f : Frame} (hf : f.length < headerSize v) (s : State)
    (handle : Decoded → Result) : onDecoded v f s handle = .next (s.emit [.framingError f.length]) := by
  rw [onDecoded, decode_short v f hf]
  rfl

/-! ### The sender (R160, R162) -/

/-- A variant-A sender right after it has accepted a SEND. -/
def State.acceptA (s : State) (data : Frame) : State :=
  let p := Codec.encode .a kindData 0 data
  (s.setRegs (.senderA { phase := .awaitingResponse, lastPacket := p })).emit [.tx p]

section
variable {s : State} {r : SenderA} (hr : s.regs = .senderA r)
include hr

theorem exec_saSend (data : Frame) :
    exec (.saSend data) s = sendEvent (r.phase == .idle) data s (.next (s.acceptA data)) := by
  simp [exec, execSaSend, hr, State.acceptA]

theorem exec_saSend_of_idle {data : Frame} (hrun : s.running = true) (hph : r.phase = .idle)
    (hl : data.length ≤ s.params.mss) : exec (.saSend data) s = .next (s.acceptA data) := by
  rw [exec_saSend hr, hph]
  exact sendEvent_of_ready hrun hl _

theorem arrival_senderA_eq_exec {f : Frame} : arrival f s = exec (.saRx f) s :=
  arrival_eq_exec_rxInstr f (role := .sender) (v := .a) (by rw [hr]; rfl)

/-- R162 (a). -/
theorem arrival_senderA_idle {f : Frame} (hrun : s.running = true) (hf : f.length ≤ headerSize .a + s.params.mss)
    (hph : r.phase = .idle) : arrival f s = .next s := by
  simp [arrival, hr, execSaRx, rxEvent_of_fits hrun hf, hph]

/-- R162 (b). -/
theorem arrival_senderA_short {f : Frame} (hrun : s.running = true) (hf : f.length ≤ headerSize .a + s.params.mss)
    (hph : r.phase = .awaitingResponse) (hshort : f.length < headerSize .a) :
    arrival f s = .next (s.emit [.framingError f.length]) := by
  simp [arrival, hr, execSaRx, rxEvent_of_fits hrun hf, hph, onDecoded_of_short hshort]

variable {f : Frame} {d : Decoded} (hph : r.phase = .awaitingResponse) (hf : s.Receives .a f d)
include hph hf

/-- R162 (c). -/
theorem arrival_senderA_invalid (hbad : d.checksumOk = false) : arrival f s = .next (s.emit [.tx r.lastPacket]) := by
  simp [arrival, hr, execSaRx, hf.rxEvent_eq, hph, hf.onDecoded_eq, hbad]

variable (hok : d.checksumOk = true) (hack : d.kind ≠ kindAck) (hnak : d.kind ≠ kindNak)
include hok hack hnak

/-- R162 (f). -/
theorem arrival_senderA_unrecognized (hu : s.saUnrecognized = .retransmit) :
    arrival f s = .next (s.emit [.tx r.lastPacket]) := by
  simp [arrival, hr, execSaRx, hf.rxEvent_eq, hph, hf.onDecoded_eq, hok, hack, hnak, hu]

/-- The other value of the parameter of 93_implementation_defined.md U4. -/
theorem arrival_senderA_discarded (hu : s.saUnrecognized = .discard) : arrival f s = .next s := by
  simp [arrival, hr, execSaRx, hf.rxEvent_eq, hph, hf.onDecoded_eq, hok, hack, hnak, hu]

end

/-- Settles O17: the SEND event by phase and length, and `available_held_iff` for what lifts the hold. -/
theorem saSendTransmitsAndWaits : Obligations.SaSendTransmitsAndWaits := by
  intro s r data hr hrun
  refine ⟨fun hph hl => exec_saSend_of_idle hr hrun hph hl, fun hph => ?_, fun hph hl => ?_, fun hheld => ?_⟩
  · rw [exec_saSend hr, hph]
    exact ⟨s.held ++ [data], List.perm_append_singleton data s.held, sendEvent_of_not_ready hrun data _⟩
  · rw [exec_saSend hr, hph]
    exact sendEvent_of_tooLong hrun hl _
  · rw [available_held_iff hrun (v := .a) (by rw [hr]; rfl) hheld, State.canAccept, hr]
    exact beq_iff_eq

/-- Settles O18, one `arrival_senderA_` lemma for each branch. -/
theorem saRxBranches : Obligations.SaRxBranches := by
  intro s r f hr hrun hfits
  rw [← arrival_senderA_eq_exec hr]
  refine ⟨arrival_senderA_idle hr hrun hfits, arrival_senderA_short hr hrun hfits, fun d hph hd => ?_⟩
  have hf : s.Receives .a f d := ⟨hrun, hfits, hd⟩
  refine ⟨fun hbad => ?_, fun hok hk => arrival_senderA_ack hok hr hph hf hk,
    fun hok hack hnak hu => arrival_senderA_unrecognized hr hph hf hok hack hnak hu,
    fun hok hack hnak hu => arrival_senderA_discarded hr hph hf hok hack hnak hu⟩
  cases hok : d.checksumOk with
  | false => exact arrival_senderA_invalid hr hph hf hok
  | true => exact arrival_senderA_nak hok hr hph hf (hbad.resolve_left (by simp [hok]))

/-! ### The receiver (R164) -/

section
variable {s : State} (hr : s.regs = .receiverA)
include hr

theorem arrival_receiverA_eq_exec {f : Frame} : arrival f s = exec (.raRx f) s :=
  arrival_eq_exec_rxInstr f (role := .receiver) (v := .a) (by rw [hr]; rfl)

/-- R164 (a). -/
theorem arrival_receiverA_short {f : Frame} (hrun : s.running = true) (hf : f.length ≤ headerSize .a + s.params.mss)
    (hshort : f.length < headerSize .a) : arrival f s = .next (s.emit [.framingError f.length]) := by
  simp [arrival, hr, execRaRx, rxEvent_of_fits hrun hf, onDecoded_of_short hshort]

variable {f : Frame} {d : Decoded} (hf : s.Receives .a f d)
include hf

/-- R164 (b). -/
theorem arrival_receiverA_invalid (hbad : d.checksumOk = false) :
    arrival f s = .next (s.emit [.tx (Codec.control .a kindNak 0)]) := by
  simp [arrival, hr, execRaRx, hf.rxEvent_eq, hf.onDecoded_eq, hbad]

/-- R164 (d). -/
theorem arrival_receiverA_not_data (hok : d.checksumOk = true) (hk : d.kind ≠ kindData) :
    arrival f s = .next s := by
  simp [arrival, hr, execRaRx, hf.rxEvent_eq, hf.onDecoded_eq, hok, hk]

end

/-- Settles O19, one `arrival_receiverA_` lemma for each branch; the replies' bytes by evaluation. -/
theorem raRxBranches : Obligations.RaRxBranches := by
  intro s f hr hrun hfits
  rw [← arrival_receiverA_eq_exec hr]
  refine ⟨arrival_receiverA_short hr hrun hfits, fun d hd => ?_⟩
  have hf : s.Receives .a f d := ⟨hrun, hfits, hd⟩
  exact ⟨fun hbad => arrival_receiverA_invalid hr hf hbad, fun hok hk => arrival_receiverA_data hok hr hf hk,
    fun hok hk => arrival_receiverA_not_data hr hf hok hk⟩

/-! ### Without a timer only a frame moves the sender (R168, R188) -/

section
variable (s : State)

@[simp] theorem transmitted_self : transmitted s s = [] := transmitted_of_outputs_eq rfl

@[simp] theorem transmitted_hold (data : Frame) : transmitted s (s.hold data) = [] := transmitted_of_outputs_eq rfl

@[simp] theorem transmitted_setResult (r : OpResult) : transmitted s (s.setResult r) = [] :=
  transmitted_of_outputs_eq rfl

end

section
variable {s t : State}

/-- SHUTDOWN answers next: its key names the role and variant at hand, and it stops them (R290). -/
theorem execShutdown_eq_next {role : Role} {v : Variant} (h : execShutdown role v s = .next t) :
    s.regs.identity = some (role, v) ∧ t = { s with
      running := false
      regs := shutdownRegs (unspecifiedRemaining s.params.timeoutTicks s.draws) s.regs } := by
  unfold execShutdown at h
  split at h
  · next hid => cases h; exact ⟨hid, rfl⟩
  · exact absurd h (misaddressed_ne_next s t)

/-- An instruction whose key names a role and variant answers next only where the registers are theirs (R276). -/
theorem identity_of_exec_eq_next {i : Instr} {a : Role × Variant} (ha : addressee i = some a)
    (h : exec i s = .next t) : s.regs.identity = some a := by
  cases i with
  | saSend _ | sbSend _ | scSend _ | sdSend _ | saRx _ | sbRx _ | scRx _ | sdRx _ | raRx _ | rbRx _ | rcRx _ | rdRx _
  | scTimeout | sdTimeout =>
    cases ha
    simp only [exec, execSaSend, execSbSend, execScSend, execSdSend, execSaRx, execSbRx, execScRx, execSdRx, execRaRx,
      execRbRx, execRcRx, execRdRx, execScTimeout, execSdTimeout] at h
    split at h
    · next hr => rw [hr]; rfl
    · exact absurd h (misaddressed_ne_next s t)
  | tmrArm v | tmrCancel v | tmrRestart v | tmrTick v =>
    cases ha
    obtain ⟨r, rfl, hr, _⟩ | ⟨r, rfl, hr, _⟩ := onTimer_eq_next h <;> rw [hr] <;> rfl
  | shutdown role v =>
    cases ha
    obtain ⟨hid, _⟩ := execShutdown_eq_next h
    exact hid
  | _ => cases ha

/-- The registers as they were, and nothing handed to the channel. -/
structure State.Unmoved (s t : State) : Prop where
  regs : t.regs = s.regs
  silent : transmitted s t = []

/-- The codec functions: they leave a result or raise FramingError (R146, R270). -/
theorem exec_unmoved_of_no_addressee {i : Instr} (ha : addressee i = none) (hrx : isReception i = false)
    (hi : ∀ cfg, i ≠ .reset cfg) (h : exec i s = .next t) : s.Unmoved t := by
  have of_setResult (r : OpResult) : s.Unmoved (s.setResult r) := ⟨rfl, transmitted_setResult s r⟩
  cases i with
  | csum16 => cases h; exact of_setResult _
  | seqEnc | seqDec | encode =>
    simp only [exec, execSeqEnc, execSeqDec, execEncode] at h
    (repeat' split at h) <;> cases h
    exact of_setResult _
  | decode r v f =>
    obtain ⟨_, rfl⟩ | ⟨d, _, h⟩ := onDecoded_eq_next h
    · exact ⟨rfl, by simp [Output.frame]⟩
    · cases h; exact of_setResult _
  | reset cfg => exact absurd rfl (hi cfg)
  | aData | aAck | aNak | bData | bAck | bNak | cData | cAck | cNak | dData | dAck | dNak => cases hrx
  | _ => cases ha

theorem sendEvent_not_ready_unmoved {data : Frame} {accept : Result} (h : sendEvent false data s accept = .next t) :
    s.Unmoved t := by
  obtain ⟨_, rfl⟩ | ⟨_, _, rfl⟩ | ⟨_, hready, _⟩ := sendEvent_eq_next h
  · exact ⟨rfl, transmitted_self t⟩
  · exact ⟨rfl, transmitted_hold s data⟩
  · cases hready

end

theorem identity_eq_senderA {r : Regs} : r.identity = some (.sender, .a) ↔ ∃ x, r = .senderA x := by
  cases r <;> simp [Regs.identity]

theorem identity_eq_senderB {r : Regs} : r.identity = some (.sender, .b) ↔ ∃ x, r = .senderB x := by
  cases r <;> simp [Regs.identity]

theorem exec_sbSend {s : State} {r : SenderB} (hr : s.regs = .senderB r) (data : Frame) :
    exec (.sbSend data) s = sendEvent (r.phase == .ready) data s
      (.next ((s.setRegs (.senderB { r with
        phase := .waitAck, lastPacket := Codec.encode .b kindData r.currentSequence.toNat data })).emit
          [.tx (Codec.encode .b kindData r.currentSequence.toNat data)])) := by
  simp [exec, execSbSend, hr]

/-- A sender without a timer has no register that SHUTDOWN writes (R290). -/
theorem shutdownRegs_of_untimed {r : Regs} (hid : r.identity = some (.sender, .a) ∨ r.identity = some (.sender, .b))
    (u : Nat) : shutdownRegs u r = r := by
  rw [identity_eq_senderA, identity_eq_senderB] at hid
  obtain ⟨x, rfl⟩ | ⟨x, rfl⟩ := hid <;> rfl

/-- Settles O52: the codec functions write no register, a SEND is held, SHUTDOWN writes only registers of a timed sender,
and every other key names a role and variant that has a timer. -/
theorem withoutTimerOnlyAFrameMovesTheSender : Obligations.WithoutTimerOnlyAFrameMovesTheSender := by
  intro i s t hid hw hi hrx h
  suffices hun : s.Unmoved t from ⟨hun.regs, hun.silent⟩
  cases i with
  | csum16 | seqEnc | seqDec | encode | decode => exact exec_unmoved_of_no_addressee rfl rfl hi h
  | saSend data =>
    obtain ⟨r, hr⟩ := identity_eq_senderA.mp (identity_of_exec_eq_next rfl h)
    rw [hr] at hw
    have hph : r.phase = .awaitingResponse := eq_of_beq hw
    rw [exec_saSend hr, hph] at h
    exact sendEvent_not_ready_unmoved h
  | sbSend data =>
    obtain ⟨r, hr⟩ := identity_eq_senderB.mp (identity_of_exec_eq_next rfl h)
    rw [hr] at hw
    have hph : r.phase = .waitAck := eq_of_beq hw
    rw [exec_sbSend hr, hph] at h
    exact sendEvent_not_ready_unmoved h
  | shutdown role v =>
    obtain ⟨_, rfl⟩ := execShutdown_eq_next h
    exact ⟨shutdownRegs_of_untimed hid _, transmitted_of_outputs_eq rfl⟩
  | scSend | sdSend | scTimeout | sdTimeout =>
    rw [identity_of_exec_eq_next rfl h] at hid
    obtain hid | hid := hid <;> cases hid
  | tmrArm v | tmrCancel v | tmrRestart v | tmrTick v =>
    rw [identity_of_exec_eq_next rfl h] at hid
    cases v <;> obtain hid | hid := hid <;> cases hid
  | reset cfg => exact absurd rfl (hi cfg)
  | _ => cases hrx

/-! ### A payload delivered twice (R166) -/

/-- A run starts with one action and goes on from the session that it leads to. -/
theorem Session.exists_run_cons {w w' : Session} {a : Action} {as : List Action} {P : Session → Prop}
    (h : w.act a = some w') (hrest : ∃ u, w'.run as = some u ∧ P u) : ∃ u, w.run (a :: as) = some u ∧ P u := by
  simpa only [Session.run, h] using hrest

section
variable {w : Session} {t : State}

theorem Session.act_send_of_accepted {data : Frame} {i : Instr} (hi : w.sender.regs.sendInstr data = some i)
    (hrun : w.sender.running = true) (haccept : w.sender.canAccept = true) (h : exec i w.sender = .next t) :
    w.act (.send data) = some { w with
      sender := t
      toReceiver := w.toReceiver ++ transmitted w.sender t
      sent := w.sent ++ [data] } := by
  simp [Session.act, Session.present, hi, hrun, haccept, h, Session.afterSender]

variable {k : Nat} {f : Frame} {changes : List (Nat × Byte)}

theorem Session.act_deliverToReceiver (hf : w.toReceiver[k]? = some f) (hc : changes.length ≤ 5)
    (h : arrival (alter changes f) w.receiver = .next t) :
    w.act (.deliverToReceiver k changes) = some { w with
      receiver := t
      toReceiver := w.toReceiver.eraseIdx k
      toSender := w.toSender ++ transmitted w.receiver t } := by
  simp [Session.act, hf, hc, h, Session.afterReceiver]

theorem Session.act_deliverToSender (hf : w.toSender[k]? = some f) (hc : changes.length ≤ 5)
    (h : arrival (alter changes f) w.sender = .next t) :
    w.act (.deliverToSender k changes) = some { w with
      sender := t
      toReceiver := w.toReceiver ++ transmitted w.sender t
      toSender := w.toSender.eraseIdx k } := by
  simp [Session.act, hf, hc, h, Session.afterSender]

end

/-- Byte 2 of ACK is the low byte of its checksum (T-ENC1, P1). -/
theorem receives_corrupted_ack {s : State} (hrun : s.running = true) :
    s.Receives .a (alter [(2, 0xFF)] (Codec.control .a kindAck 0))
      { kind := kindAck, seq := none, checksumOk := false, payload := [] } where
  running := hrun
  fits := Nat.le_add_right 3 _
  decoded := rfl

/-- Settles O58: the corrupted ACK is answered by the stored frame, which the receiver cannot tell from a new one. -/
theorem variantADeliversTwiceAfterBadAck : Obligations.VariantADeliversTwiceAfterBadAck := by
  intro p data hl
  refine Session.exists_run_cons (Session.act_send_of_accepted rfl rfl rfl (exec_saSend_of_idle rfl rfl rfl hl)) ?_
  refine Session.exists_run_cons (Session.act_deliverToReceiver rfl (by decide)
    (arrival_receiverA_data rfl rfl (receives_encode rfl kindData rfl hl) rfl)) ?_
  refine Session.exists_run_cons (Session.act_deliverToSender rfl (by decide)
    (arrival_senderA_invalid rfl rfl (receives_corrupted_ack rfl) rfl)) ?_
  refine Session.exists_run_cons (Session.act_deliverToReceiver rfl (by decide)
    (arrival_receiverA_data rfl rfl (receives_encode rfl kindData rfl hl) rfl)) ?_
  refine Session.exists_run_cons (Session.act_deliverToSender rfl (by decide)
    (arrival_senderA_ack rfl rfl rfl (receives_encode rfl kindAck rfl (Nat.zero_le _)) rfl)) ?_
  exact ⟨_, rfl, rfl, rfl, rfl⟩

end Sys2Proof.Machine
end

section
/-! PROOFS. Variant B (42_variant_B_alternating_bit.md): the handlers of both roles (R180 to R184), what an action of a session
can do, and the alternation of sender and receiver over a channel that loses nothing (R186). -/

namespace Sys2Proof.Machine

/-! ### The one-bit sequence -/

theorem flipBit_toNat (c : BitVec 1) : (flipBit c).toNat = 1 - c.toNat := by
  obtain rfl | rfl := BitVec.eq_zero_or_eq_one c <;> rfl

theorem seqInDomain_b_toNat (c : BitVec 1) : seqInDomain .b c.toNat = true := decide_eq_true c.isLt

/-! ### The sender (R180, R182) -/

/-- A variant-B sender with registers `r` right after it has accepted a SEND. -/
def State.acceptB (s : State) (r : SenderB) (data : Frame) : State :=
  let p := Codec.encode .b kindData r.currentSequence.toNat data
  (s.setRegs (.senderB { r with phase := .waitAck, lastPacket := p })).emit [.tx p]

section
variable {s : State} {r : SenderB} (hr : s.regs = .senderB r)
include hr

theorem exec_sbSend_of_ready {data : Frame} (hrun : s.running = true) (hph : r.phase = .ready)
    (hl : data.length ≤ s.params.mss) : exec (.sbSend data) s = .next (s.acceptB r data) := by
  rw [exec_sbSend hr, hph]
  exact sendEvent_of_ready hrun hl _

theorem canAccept_senderB : s.canAccept = true ↔ r.phase = .ready := by
  rw [State.canAccept, hr]
  exact beq_iff_eq

theorem arrival_senderB_eq_exec {f : Frame} : arrival f s = exec (.sbRx f) s :=
  arrival_eq_exec_rxInstr f (role := .sender) (v := .b) (by rw [hr]; rfl)

/-- R182 (a). -/
theorem arrival_senderB_ready {f : Frame} (hrun : s.running = true) (hf : f.length ≤ headerSize .b + s.params.mss)
    (hph : r.phase = .ready) : arrival f s = .next s := by
  simp [arrival, hr, execSbRx, rxEvent_of_fits hrun hf, hph]

/-- R182 (b). -/
theorem arrival_senderB_short {f : Frame} (hrun : s.running = true) (hf : f.length ≤ headerSize .b + s.params.mss)
    (hph : r.phase = .waitAck) (hshort : f.length < headerSize .b) :
    arrival f s = .next (s.emit [.framingError f.length]) := by
  simp [arrival, hr, execSbRx, rxEvent_of_fits hrun hf, hph, onDecoded_of_short hshort]

variable {f : Frame} {d : Decoded} (hph : r.phase = .waitAck) (hf : s.Receives .b f d)
include hph hf

/-- R182 (c). -/
theorem arrival_senderB_invalid (hbad : d.checksumOk = false) : arrival f s = .next s := by
  simp [arrival, hr, execSbRx, hf.rxEvent_eq, hph, hf.onDecoded_eq, hbad]

/-- R182 (d). -/
theorem arrival_senderB_stale (hok : d.checksumOk = true) (hk : d.kind = kindAck ∨ d.kind = kindNak)
    (hq : d.seq = some (flipBit r.currentSequence).toNat) : arrival f s = .next s := by
  simp [arrival, hr, execSbRx, hf.rxEvent_eq, hph, hf.onDecoded_eq, hok, hk, hq]

/-- R182 (g). -/
theorem arrival_senderB_other (hok : d.checksumOk = true)
    (hstale : ¬ ((d.kind = kindAck ∨ d.kind = kindNak) ∧ d.seq = some (flipBit r.currentSequence).toNat))
    (hack : ¬ (d.kind = kindAck ∧ d.seq = some r.currentSequence.toNat)) :
    arrival f s = .next (s.emit [.tx r.lastPacket]) := by
  simp [arrival, hr, execSbRx, hf.rxEvent_eq, hph, hf.onDecoded_eq, hok, hstale, hack]

end

/-- Settles O20: the SEND event by phase and length, and `available_held_iff` for what lifts the hold. -/
theorem sbSendTransmitsAndWaits : Obligations.SbSendTransmitsAndWaits := by
  intro s r data hr hrun
  refine ⟨fun hph hl => exec_sbSend_of_ready hr hrun hph hl, fun hph => ?_, fun hph hl => ?_, fun hheld => ?_⟩
  · rw [exec_sbSend hr, hph]
    exact ⟨s.held ++ [data], List.perm_append_singleton data s.held, sendEvent_of_not_ready hrun data _⟩
  · rw [exec_sbSend hr, hph]
    exact sendEvent_of_tooLong hrun hl _
  · rw [available_held_iff hrun (v := .b) (by rw [hr]; rfl) hheld]
    exact canAccept_senderB hr

/-- Settles O21, one `arrival_senderB_` lemma for each branch; a frame of another kind, or of a sequence byte that is
neither 0 nor 1, falls to branch (g). -/
theorem sbRxBranches : Obligations.SbRxBranches := by
  intro s r f hr hrun hfits
  rw [← arrival_senderB_eq_exec hr]
  refine ⟨arrival_senderB_ready hr hrun hfits, arrival_senderB_short hr hrun hfits, fun d hph hd => ?_⟩
  have hf : s.Receives .b f d := ⟨hrun, hfits, hd⟩
  rw [← flipBit_toNat]
  refine ⟨arrival_senderB_invalid hr hph hf, arrival_senderB_stale hr hph hf,
    fun hok hk hq => arrival_senderB_ack hok hr hph hf hk hq, fun hok hk hq => arrival_senderB_nak hok hr hph hf hk hq,
    fun hok hother => arrival_senderB_other hr hph hf hok ?_ ?_⟩
  · rintro ⟨hk, hq⟩
    obtain ⟨hack, hnak⟩ | ⟨_, hne⟩ := hother
    · exact hk.elim hack hnak
    · exact hne hq
  · rintro ⟨hk, hq⟩
    obtain ⟨hack, _⟩ | ⟨hne, _⟩ := hother
    · exact hack hk
    · exact hne hq

/-! ### The receiver (R184) -/

section
variable {s : State} {e : BitVec 1} (hr : s.regs = .receiverB e)
include hr

theorem arrival_receiverB_eq_exec {f : Frame} : arrival f s = exec (.rbRx f) s :=
  arrival_eq_exec_rxInstr f (role := .receiver) (v := .b) (by rw [hr]; rfl)

/-- R184 (a). -/
theorem arrival_receiverB_short {f : Frame} (hrun : s.running = true) (hf : f.length ≤ headerSize .b + s.params.mss)
    (hshort : f.length < headerSize .b) : arrival f s = .next (s.emit [.framingError f.length]) := by
  simp [arrival, hr, execRbRx, rxEvent_of_fits hrun hf, onDecoded_of_short hshort]

variable {f : Frame} {d : Decoded} (hf : s.Receives .b f d)
include hf

/-- R184 (b). -/
theorem arrival_receiverB_invalid (hbad : d.checksumOk = false) :
    arrival f s = .next (s.emit [.tx (Codec.control .b kindNak e.toNat)]) := by
  simp [arrival, hr, execRbRx, hf.rxEvent_eq, hf.onDecoded_eq, hbad]

/-- R184 (c). -/
theorem arrival_receiverB_not_data (hok : d.checksumOk = true) (hk : d.kind ≠ kindData) :
    arrival f s = .next s := by
  simp [arrival, hr, execRbRx, hf.rxEvent_eq, hf.onDecoded_eq, hok, hk]

/-- R184 (e). -/
theorem arrival_receiverB_other (hok : d.checksumOk = true) (hk : d.kind = kindData) (hq : d.seq ≠ some e.toNat) :
    arrival f s = .next (s.emit [.tx (Codec.control .b kindAck (flipBit e).toNat)]) := by
  simp [arrival, hr, execRbRx, hf.rxEvent_eq, hf.onDecoded_eq, hok, hk, hq]

end

/-- Settles O22, one `arrival_receiverB_` lemma for each branch. -/
theorem rbRxBranches : Obligations.RbRxBranches := by
  intro s e f hr hrun hfits
  rw [← arrival_receiverB_eq_exec hr]
  refine ⟨arrival_receiverB_short hr hrun hfits, fun d hd => ?_⟩
  have hf : s.Receives .b f d := ⟨hrun, hfits, hd⟩
  rw [← flipBit_toNat]
  exact ⟨arrival_receiverB_invalid hr hf, arrival_receiverB_not_data hr hf,
    fun hok hk hq => arrival_receiverB_data hok hr hf hk hq, arrival_receiverB_other hr hf⟩

/-! ### What an action of a session can do -/

/-- What holds at the start and is kept by every allowed action holds in every session reached. -/
theorem Session.Reaches.invariant {ok : Session → Action → Prop} {I : Session → Prop}
    (keep : ∀ {w w' : Session} {a : Action}, I w → ok w a → w.act a = some w' → I w') {w w' : Session}
    (h : Session.Reaches ok w w') (hw : I w) : I w' := by
  induction h with
  | refl => exact hw
  | step a _ allowed acts ih => exact keep ih allowed acts

section
variable {w w' : Session}

theorem Session.afterSender_eq_some {res : Result} (h : w.afterSender res = some w') : ∃ t, res = .next t ∧
    w' = { w with sender := t, toReceiver := w.toReceiver ++ transmitted w.sender t } := by
  cases res with
  | next t => exact ⟨t, rfl, (Option.some.inj h).symm⟩
  | fault e => cases h
  | refused e => cases h

theorem Session.afterReceiver_eq_some {res : Result} (h : w.afterReceiver res = some w') : ∃ t, res = .next t ∧
    w' = { w with receiver := t, toSender := w.toSender ++ transmitted w.receiver t } := by
  cases res with
  | next t => exact ⟨t, rfl, (Option.some.inj h).symm⟩
  | fault e => cases h
  | refused e => cases h

/-- A presented SEND runs, and its payload counts as sent if the sender could accept it. -/
theorem Session.present_eq_some {data : Frame} (h : w.present data = some w') :
    ∃ i t, w.sender.regs.sendInstr data = some i ∧ exec i w.sender = .next t ∧
      w' = { w with
        sender := t
        toReceiver := w.toReceiver ++ transmitted w.sender t
        sent := if w.sender.running && w.sender.canAccept then w.sent ++ [data] else w.sent } := by
  unfold Session.present at h
  split at h
  · cases h
  · next i hi =>
    obtain ⟨t, ht, rfl⟩ := Session.afterSender_eq_some h
    exact ⟨i, t, hi, ht, by split <;> rfl⟩

/-- A held SEND that is taken is presented like a new one. -/
theorem Session.act_resume_eq_some (h : w.act .resume = some w') :
    ∃ data rest, Session.present { w with sender := { w.sender with held := rest } } data = some w' := by
  simp only [Session.act] at h
  split at h
  · cases h
  · split at h
    · exact ⟨_, _, h⟩
    · cases h

theorem Session.act_deliverToReceiver_eq_some {k : Nat} {changes : List (Nat × Byte)}
    (h : w.act (.deliverToReceiver k changes) = some w') :
    ∃ f t, w.toReceiver[k]? = some f ∧ arrival (alter changes f) w.receiver = .next t ∧
      w' = { w with
        receiver := t
        toReceiver := w.toReceiver.eraseIdx k
        toSender := w.toSender ++ transmitted w.receiver t } := by
  simp only [Session.act] at h
  split at h
  · cases h
  · next f hf =>
    split at h
    · obtain ⟨t, ht, rfl⟩ := Session.afterReceiver_eq_some h
      exact ⟨f, t, hf, ht, rfl⟩
    · cases h

theorem Session.act_deliverToSender_eq_some {k : Nat} {changes : List (Nat × Byte)}
    (h : w.act (.deliverToSender k changes) = some w') :
    ∃ f t, w.toSender[k]? = some f ∧ arrival (alter changes f) w.sender = .next t ∧
      w' = { w with
        sender := t
        toReceiver := w.toReceiver ++ transmitted w.sender t
        toSender := w.toSender.eraseIdx k } := by
  simp only [Session.act] at h
  split at h
  · cases h
  · next f hf =>
    split at h
    · obtain ⟨t, ht, rfl⟩ := Session.afterSender_eq_some h
      exact ⟨f, t, hf, ht, rfl⟩
    · cases h

theorem transmitted_of_execShutdown {role : Role} {v : Variant} {s t : State} (h : execShutdown role v s = .next t) :
    transmitted s t = [] := by
  obtain ⟨_, rfl⟩ := execShutdown_eq_next h
  exact transmitted_of_outputs_eq rfl

/-- SHUTDOWN of the sender stops it; no frame is transmitted (R290). -/
theorem Session.act_shutdown_sender_eq_some (h : w.act (.shutdown .sender) = some w') : ∃ u,
    w' = { w with sender := { w.sender with running := false, regs := shutdownRegs u w.sender.regs } } := by
  simp only [Session.act] at h
  split at h
  · cases h
  · obtain ⟨t, ht, rfl⟩ := Session.afterSender_eq_some h
    obtain ⟨_, hstopped⟩ := execShutdown_eq_next ht
    exact ⟨_, by rw [transmitted_of_execShutdown ht, List.append_nil, hstopped]⟩

theorem Session.act_shutdown_receiver_eq_some (h : w.act (.shutdown .receiver) = some w') : ∃ u,
    w' = { w with receiver := { w.receiver with running := false, regs := shutdownRegs u w.receiver.regs } } := by
  simp only [Session.act] at h
  split at h
  · cases h
  · obtain ⟨t, ht, rfl⟩ := Session.afterReceiver_eq_some h
    obtain ⟨_, hstopped⟩ := execShutdown_eq_next ht
    exact ⟨_, by rw [transmitted_of_execShutdown ht, List.append_nil, hstopped]⟩

end

/-- A frame that DECODE reads arrives: the instance is stopped and nothing happens (R290), or it receives the frame. -/
theorem stopped_or_receives_of_arrival {s t : State} {role : Role} {v : Variant} {f : Frame} {d : Decoded}
    (hid : s.regs.identity = some (role, v)) (hd : Codec.decode v f = .ok d) (h : arrival f s = .next t) :
    t = s ∨ s.Receives v f d := by
  have of_rxEvent {handle : Result} (h : rxEvent v f s handle = .next t) : t = s ∨ s.Receives v f d := by
    obtain ⟨_, rfl⟩ | ⟨hrun, hfits, _⟩ := rxEvent_eq_next h
    · exact .inl rfl
    · exact .inr ⟨hrun, hfits, hd⟩
  cases hr : s.regs <;> rw [hr] at hid <;> cases hid <;>
    simp only [arrival, hr, execSaRx, execSbRx, execScRx, execSdRx, execRaRx, execRbRx, execRcRx, execRdRx] at h <;>
    exact of_rxEvent h

@[simp] theorem State.delivered_setRegs (s : State) (r : Regs) : (s.setRegs r).delivered = s.delivered := rfl

@[simp] theorem State.delivered_emit (s : State) (os : List Output) :
    (s.emit os).delivered = s.delivered ++ os.filterMap Output.payload :=
  List.filterMap_append

/-- One frame is in flight: it is the one that is taken, and none is left. -/
theorem eq_and_eraseIdx_of_singleton {fs : List Frame} {f g : Frame} {k : Nat} (hfs : fs = [g])
    (h : fs[k]? = some f) : f = g ∧ fs.eraseIdx k = [] := by
  subst hfs
  cases k with
  | zero => exact ⟨(Option.some.inj h).symm, rfl⟩
  | succ k => cases h

/-! ### The alternation of sender and receiver (R186) -/

/-- The sender waits, and the receiver still expects the payload that is outstanding. -/
structure SenderB.Undelivered (r : SenderB) (e : BitVec 1) (sent delivered : List Frame) : Prop where
  waits : r.phase = .waitAck
  expects : e = r.currentSequence
  outstanding : ∃ p, r.lastPacket = Codec.encode .b kindData r.currentSequence.toNat p ∧ sent = delivered ++ [p]

/-- The sender waits, and the receiver has delivered the payload and expects the next sequence. -/
structure SenderB.Unacknowledged (r : SenderB) (e : BitVec 1) (sent delivered : List Frame) : Prop where
  waits : r.phase = .waitAck
  expects : e = flipBit r.currentSequence
  all : delivered = sent

/-- The outstanding DATA frame arrives damaged or as the sender stored it. -/
theorem SenderB.Undelivered.decode_arriving {r : SenderB} {e : BitVec 1} {sent delivered : List Frame} {f : Frame}
    (stage : r.Undelivered e sent delivered)
    (hf : f = r.lastPacket ∨ ∃ d, Codec.decode .b f = .ok d ∧ d.checksumOk = false) :
    ∃ d, Codec.decode .b f = .ok d ∧ (d.checksumOk = false ∨
      d.checksumOk = true ∧ d.kind = kindData ∧ d.seq = some e.toNat ∧ sent = delivered ++ [d.payload]) := by
  obtain rfl | ⟨d, hd, hbad⟩ := hf
  · obtain ⟨p, hstored, hsent⟩ := stage.outstanding
    have hd := decode_encode kindData p (seqInDomain_b_toNat r.currentSequence)
    rw [hstored]
    exact ⟨_, hd, .inr ⟨rfl, rfl, by rw [stage.expects]; rfl, hsent⟩⟩
  · exact ⟨d, hd, .inl hbad⟩

/-- Where a session of variant B stands. At most one frame is in flight; there is none while the sender is ready, and none
any more once a stopped instance has discarded it (R290). -/
inductive AlternationB (r : SenderB) (e : BitVec 1) (sent delivered toReceiver toSender : List Frame) : Prop where
  | ready (phase : r.phase = .ready) (expects : e = r.currentSequence) (all : delivered = sent)
      (noData : toReceiver = []) (noReply : toSender = [])
  | dataInFlight (stage : r.Undelivered e sent delivered) (data : toReceiver = [r.lastPacket]) (noReply : toSender = [])
  | nakInFlight (stage : r.Undelivered e sent delivered) (noData : toReceiver = [])
      (nak : toSender = [Codec.control .b kindNak r.currentSequence.toNat])
  | ackInFlight (stage : r.Unacknowledged e sent delivered) (noData : toReceiver = [])
      (ack : toSender = [Codec.control .b kindAck r.currentSequence.toNat])
  | discarded (stage : r.Undelivered e sent delivered ∨ r.Unacknowledged e sent delivered) (noData : toReceiver = [])
      (noReply : toSender = [])

/-- The invariant of R186. -/
def Session.AlternatesB (w : Session) : Prop :=
  ∃ r e, w.sender.regs = .senderB r ∧ w.receiver.regs = .receiverB e ∧
    AlternationB r e w.sent w.receiver.delivered w.toReceiver w.toSender

theorem alternatesB_fresh (p : Params) : (Session.fresh .b p).AlternatesB :=
  ⟨_, _, rfl, rfl, .ready rfl rfl rfl rfl rfl⟩

/-- R186's claim, from where the session stands. -/
theorem AlternationB.delivered_prefix_sent {r : SenderB} {e : BitVec 1} {sent delivered toReceiver toSender : List Frame}
    (h : AlternationB r e sent delivered toReceiver toSender) :
    delivered <+: sent ∧ (r.phase = .ready → delivered = sent) := by
  have of_all (hall : delivered = sent) : delivered <+: sent ∧ (r.phase = .ready → delivered = sent) :=
    ⟨hall ▸ List.prefix_refl _, fun _ => hall⟩
  have of_undelivered (hu : r.Undelivered e sent delivered) :
      delivered <+: sent ∧ (r.phase = .ready → delivered = sent) := by
    obtain ⟨p, _, hsent⟩ := hu.outstanding
    exact ⟨⟨[p], hsent.symm⟩, fun hph => absurd (hu.waits.symm.trans hph) nofun⟩
  cases h with
  | ready _ _ hall _ _ => exact of_all hall
  | dataInFlight stage _ _ | nakInFlight stage _ _ => exact of_undelivered stage
  | ackInFlight stage _ _ => exact of_all stage.all
  | discarded stage _ _ => exact stage.elim of_undelivered fun hd => of_all hd.all

section
variable {w w' : Session}

/-- A SEND that is discarded or held changes nothing the alternation is about; one that is accepted puts the only frame in
flight. -/
theorem Session.AlternatesB.present {data : Frame} (hw : w.AlternatesB) (h : w.present data = some w') :
    w'.AlternatesB := by
  obtain ⟨r, e, hs, hr, hx⟩ := hw
  obtain ⟨i, t, hi, ht, rfl⟩ := Session.present_eq_some h
  obtain rfl : i = .sbSend data := by
    rw [Regs.sendInstr, hs] at hi
    exact (Option.some.inj hi).symm
  rw [exec_sbSend hs] at ht
  obtain ⟨hstop, rfl⟩ | ⟨_, hwait, rfl⟩ | ⟨hrun, hready, _, ht⟩ := sendEvent_eq_next ht
  · exact ⟨r, e, hs, hr, by simpa [hstop] using hx⟩
  · have hno : w.sender.canAccept = false := by rw [State.canAccept, hs]; exact hwait
    exact ⟨r, e, hs, hr, by simpa [hno] using hx⟩
  · cases ht
    have hph : r.phase = .ready := eq_of_beq hready
    have hyes : w.sender.canAccept = true := (canAccept_senderB hs).mpr hph
    cases hx with
    | ready _ hexp hall hdata hreply =>
      refine ⟨_, e, rfl, hr, .dataInFlight ⟨rfl, hexp, data, rfl, ?_⟩ ?_ hreply⟩
      · simp [hrun, hyes, hall]
      · simp [hdata, Output.frame]
    | dataInFlight stage _ _ | nakInFlight stage _ _ | ackInFlight stage _ _ =>
      exact absurd (stage.waits.symm.trans hph) nofun
    | discarded stage _ _ =>
      exact absurd ((stage.elim (·.waits) (·.waits)).symm.trans hph) nofun

/-- Only DATA is ever in flight to the receiver. Unchanged it is delivered and acknowledged, damaged it is refused by NAK, and
a stopped receiver discards it. -/
theorem Session.AlternatesB.deliverToReceiver {k : Nat} {changes : List (Nat × Byte)} (hw : w.AlternatesB)
    (hdet : (Action.deliverToReceiver k changes).DetectedIn .b w)
    (h : w.act (.deliverToReceiver k changes) = some w') : w'.AlternatesB := by
  obtain ⟨r, e, hs, hr, hx⟩ := hw
  obtain ⟨f, t, hf, ht, rfl⟩ := Session.act_deliverToReceiver_eq_some h
  have hid : w.receiver.regs.identity = some (.receiver, .b) := by rw [hr]; rfl
  cases hx with
  | ready _ _ _ hdata _ | nakInFlight _ hdata _ | ackInFlight _ hdata _ | discarded _ hdata _ => simp [hdata] at hf
  | dataInFlight stage hdata hreply =>
    obtain ⟨rfl, hnone⟩ := eq_and_eraseIdx_of_singleton hdata hf
    obtain ⟨d, hd, hcase⟩ := stage.decode_arriving (hdet _ hf)
    obtain rfl | hrec := stopped_or_receives_of_arrival hid hd ht
    · exact ⟨r, e, hs, hr, .discarded (.inl stage) hnone (by simp [hreply])⟩
    · obtain hbad | ⟨hok, hkind, hseq, hsent⟩ := hcase
      · cases (arrival_receiverB_invalid hr hrec hbad).symm.trans ht
        refine ⟨r, e, hs, hr, .nakInFlight ?_ hnone ?_⟩
        · simpa [List.filterMap, Output.payload] using stage
        · simp [hreply, stage.expects, List.filterMap, Output.frame]
      · cases (arrival_receiverB_data hok hr hrec hkind hseq).symm.trans ht
        refine ⟨r, flipBit e, hs, rfl, .ackInFlight ⟨stage.waits, congrArg flipBit stage.expects, ?_⟩ hnone ?_⟩
        · simp [hsent, List.filterMap, Output.payload]
        · simp [hreply, stage.expects, List.filterMap, Output.frame]

/-- NAK is in flight only while the payload is undelivered, and is answered by the stored frame; ACK only once it is delivered,
and ends the wait. A stopped sender discards either. -/
theorem Session.AlternatesB.deliverToSender {k : Nat} (hw : w.AlternatesB)
    (h : w.act (.deliverToSender k []) = some w') : w'.AlternatesB := by
  obtain ⟨r, e, hs, hr, hx⟩ := hw
  obtain ⟨f, t, hf, ht, rfl⟩ := Session.act_deliverToSender_eq_some h
  have hid : w.sender.regs.identity = some (.sender, .b) := by rw [hs]; rfl
  have hd (kind : Byte) := decode_encode kind [] (seqInDomain_b_toNat r.currentSequence)
  cases hx with
  | ready _ _ _ _ hreply | dataInFlight _ _ hreply | discarded _ _ hreply => simp [hreply] at hf
  | nakInFlight stage hdata hnak =>
    obtain ⟨rfl, hnone⟩ := eq_and_eraseIdx_of_singleton hnak hf
    obtain rfl | hrec := stopped_or_receives_of_arrival hid (hd kindNak) ht
    · exact ⟨r, e, hs, hr, .discarded (.inl stage) (by simp [hdata]) hnone⟩
    · cases (arrival_senderB_nak rfl hs stage.waits hrec rfl rfl).symm.trans ht
      exact ⟨r, e, hs, hr, .dataInFlight stage (by simp [hdata, Output.frame]) hnone⟩
  | ackInFlight stage hdata hack =>
    obtain ⟨rfl, hnone⟩ := eq_and_eraseIdx_of_singleton hack hf
    obtain rfl | hrec := stopped_or_receives_of_arrival hid (hd kindAck) ht
    · exact ⟨r, e, hs, hr, .discarded (.inr stage) (by simp [hdata]) hnone⟩
    · cases (arrival_senderB_ack rfl hs stage.waits hrec rfl rfl).symm.trans ht
      exact ⟨_, e, rfl, hr, .ready rfl stage.expects stage.all (by simp [hdata, Output.frame]) hnone⟩

/-- SHUTDOWN writes no register of variant B (R290). -/
theorem Session.AlternatesB.shutdown {side : Role} (hw : w.AlternatesB) (h : w.act (.shutdown side) = some w') :
    w'.AlternatesB := by
  obtain ⟨r, e, hs, hr, hx⟩ := hw
  cases side with
  | sender =>
    obtain ⟨u, rfl⟩ := Session.act_shutdown_sender_eq_some h
    exact ⟨r, e, congrArg (shutdownRegs u) hs, hr, hx⟩
  | receiver =>
    obtain ⟨u, rfl⟩ := Session.act_shutdown_receiver_eq_some h
    exact ⟨r, e, hs, congrArg (shutdownRegs u) hr, hx⟩

/-- A variant-B sender has no timer (R188). -/
theorem Session.AlternatesB.act_tick (hw : w.AlternatesB) : w.act .tick = none := by
  obtain ⟨r, e, hs, _⟩ := hw
  simp only [Session.act, hs]

theorem Session.AlternatesB.act_timeout (hw : w.AlternatesB) : w.act .timeout = none := by
  obtain ⟨r, e, hs, _⟩ := hw
  simp only [Session.act, hs, Regs.timeoutInstr, Regs.identity]

theorem Session.AlternatesB.act {a : Action} (hw : w.AlternatesB)
    (allowed : a.isReset = false ∧ a.DetectedIn .b w ∧ a.keepsControl = true) (h : w.act a = some w') :
    w'.AlternatesB := by
  obtain ⟨hreset, hdet, hkeep⟩ := allowed
  cases a with
  | send data => exact hw.present h
  | resume =>
    obtain ⟨data, rest, h⟩ := Session.act_resume_eq_some h
    have hheld : Session.AlternatesB { w with sender := { w.sender with held := rest } } := hw
    exact hheld.present h
  | tick => cases hw.act_tick.symm.trans h
  | timeout => cases hw.act_timeout.symm.trans h
  | deliverToReceiver k changes => exact hw.deliverToReceiver hdet h
  | deliverToSender k changes =>
    obtain rfl : changes = [] := List.isEmpty_iff.mp hkeep
    exact hw.deliverToSender h
  | dropToReceiver k | dropToSender k => cases hkeep
  | reset side cfg => cases hreset
  | shutdown side => exact hw.shutdown h

end

/-- Settles O55: the alternation holds right after RESET of both sides and is kept by every allowed action. -/
theorem variantBDeliversExactlyOnce : Obligations.VariantBDeliversExactlyOnce := by
  intro p w h
  obtain ⟨r, e, hs, _, hx⟩ := h.invariant Session.AlternatesB.act (alternatesB_fresh p)
  obtain ⟨hprefix, hall⟩ := hx.delivered_prefix_sent
  refine ⟨hprefix, fun hpending => hall ?_⟩
  rw [hs] at hpending
  cases hph : r.phase with
  | ready => rfl
  | waitAck => simp [Regs.sendPending, hph] at hpending

end Sys2Proof.Machine
end

section
/-! PROOFS. Variant C (43_variant_C_timer_driven.md): the handlers of both roles (R200 to R206), that no received frame makes
a timed sender transmit (R210, R222), and delivery exactly once over a channel that loses and reorders (R208). -/

namespace Sys2Proof.Machine

/-! ### The sender: SEND (R200) -/

/-- A variant-C sender with registers `r` right after it has accepted a SEND. -/
def State.acceptC (s : State) (r : SenderC) (data : Frame) : State :=
  let p := Codec.encode .c kindData r.currentSequence.toNat data
  (s.setRegs (.senderC { r with
    phase := .waitAck, lastPacket := p, timer := r.timer.arm s.params.timeoutTicks })).emit [.tx p]

section
variable {s : State} {r : SenderC} (hr : s.regs = .senderC r)
include hr

theorem exec_scSend (data : Frame) :
    exec (.scSend data) s = sendEvent (r.phase == .ready) data s (.next (s.acceptC r data)) := by
  simp [exec, execScSend, hr, State.acceptC]

theorem canAccept_senderC : s.canAccept = true ↔ r.phase = .ready := by
  rw [State.canAccept, hr]
  exact beq_iff_eq

end

/-- Settles O23: the SEND event by phase and length, and `available_held_iff` for what lifts the hold. -/
theorem scSendArmsTimer : Obligations.ScSendArmsTimer := by
  intro s r data hr hrun
  refine ⟨fun hph hl => ?_, fun hph => ?_, fun hph hl => ?_, fun hheld => ?_⟩
  · rw [exec_scSend hr, hph]
    exact sendEvent_of_ready hrun hl _
  · rw [exec_scSend hr, hph]
    exact ⟨s.held ++ [data], List.perm_append_singleton data s.held, sendEvent_of_not_ready hrun data _⟩
  · rw [exec_scSend hr, hph]
    exact sendEvent_of_tooLong hrun hl _
  · rw [available_held_iff hrun (v := .c) (by rw [hr]; rfl) hheld]
    exact canAccept_senderC hr

/-! ### The sender: RX (R202) -/

section
variable {s : State} {r : SenderC} (hr : s.regs = .senderC r) {f : Frame}
include hr

theorem arrival_senderC_eq_exec : arrival f s = exec (.scRx f) s :=
  arrival_eq_exec_rxInstr f (role := .sender) (v := .c) (by rw [hr]; rfl)

/-- R202 (a). -/
theorem arrival_senderC_ready (hrun : s.running = true) (hf : f.length ≤ headerSize .c + s.params.mss)
    (hph : r.phase = .ready) : arrival f s = .next s := by
  simp [arrival, hr, execScRx, rxEvent_of_fits hrun hf, hph]

/-- R202 (b). -/
theorem arrival_senderC_short (hrun : s.running = true) (hf : f.length ≤ headerSize .c + s.params.mss)
    (hph : r.phase = .waitAck) (hshort : f.length < headerSize .c) :
    arrival f s = .next (s.emit [.framingError f.length]) := by
  simp [arrival, hr, execScRx, rxEvent_of_fits hrun hf, hph, onDecoded_of_short hshort]

/-- R202 (d). -/
theorem arrival_senderC_other {d : Decoded} (hph : r.phase = .waitAck) (hf : s.Receives .c f d)
    (hother : ¬ (d.checksumOk = true ∧ d.kind = kindAck ∧ d.seq = some r.currentSequence.toNat)) :
    arrival f s = .next s := by
  simp [arrival, hr, execScRx, hf.rxEvent_eq, hph, hf.onDecoded_eq, hother]

end

/-- Cancelling leaves the timer idle, with `remaining` in its range (R254, R33). -/
theorem Timer.exists_cancel_eq {k u : Nat} {t : Timer} (hu : u ≤ k) (ht : t.remaining ≤ k) :
    ∃ left ≤ k, t.cancel u = { armed := false, expired := false, remaining := left } := by
  refine ⟨(t.cancel u).remaining, ?_, ?_⟩
  · unfold Timer.cancel
    split
    · exact hu
    · exact ht
  · calc t.cancel u = ⟨(t.cancel u).armed, (t.cancel u).expired, (t.cancel u).remaining⟩ := rfl
      _ = ⟨false, false, (t.cancel u).remaining⟩ := by rw [Timer.cancel_armed, Timer.cancel_expired]

/-- Settles O24, one `arrival_senderC_` lemma for each branch; the timer that (c) leaves is `Timer.exists_cancel_eq`'s. -/
theorem scRxBranches : Obligations.ScRxBranches := by
  intro s r f hr hrun hfits hleft
  rw [← arrival_senderC_eq_exec hr]
  refine ⟨arrival_senderC_ready hr hrun hfits, arrival_senderC_short hr hrun hfits, fun d hph hd => ?_⟩
  have hf : s.Receives .c f d := ⟨hrun, hfits, hd⟩
  refine ⟨fun hok hk hq => ?_, arrival_senderC_other hr hph hf⟩
  obtain ⟨left, hle, hcancel⟩ := Timer.exists_cancel_eq (unspecifiedRemaining_le s.params.timeoutTicks s.draws) hleft
  refine ⟨r.currentSequence + 1, left, BitVec.toNat_add .., hle, ?_⟩
  rw [arrival_senderC_ack hok hr hph hf hk hq, hcancel]
  rfl

/-! ### The sender: TIMEOUT (R204) -/

section
variable {t : Timer} {s : State} (hrun : s.running = true)
include hrun

theorem timeoutEvent_of_expired (he : t.expired = true) (handle : Result) : timeoutEvent t s handle = handle := by
  rw [timeoutEvent, whileRunning, if_pos hrun, if_pos he]

theorem timeoutEvent_of_not_expired (he : t.expired = false) (handle : Result) :
    timeoutEvent t s handle = .refused .timeoutNotEnabled := by
  rw [timeoutEvent, whileRunning, if_pos hrun, if_neg (Bool.eq_false_iff.mp he)]

end

/-- The answer of SC.TIMEOUT once the event is enabled (R204): the stored frame again, or only the flag serviced. -/
def State.timedOutC (s : State) (r : SenderC) : State :=
  match r.phase with
  | .waitAck =>
    (s.setRegs (.senderC { r with timer := r.timer.service.arm s.params.timeoutTicks })).emit [.tx r.lastPacket]
  | .ready => s.setRegs (.senderC { r with timer := r.timer.service })

section
variable (s : State) {r : SenderC}

theorem State.timedOutC_of_waitAck (hph : r.phase = .waitAck) : s.timedOutC r =
    (s.setRegs (.senderC { r with timer := r.timer.service.arm s.params.timeoutTicks })).emit [.tx r.lastPacket] := by
  simp only [State.timedOutC, hph]

theorem State.timedOutC_of_ready (hph : r.phase = .ready) :
    s.timedOutC r = s.setRegs (.senderC { r with timer := r.timer.service }) := by
  simp only [State.timedOutC, hph]

end

theorem exec_scTimeout {s : State} {r : SenderC} (hr : s.regs = .senderC r) :
    exec .scTimeout s = timeoutEvent r.timer s (.next (s.timedOutC r)) := by
  cases hph : r.phase <;> simp [exec, execScTimeout, hr, State.timedOutC, hph]

/-- Settles O25: the TIMEOUT event by `expired`, its answer by phase. -/
theorem scTimeoutRetransmits : Obligations.ScTimeoutRetransmits := by
  intro s r hr hrun
  rw [exec_scTimeout hr]
  refine ⟨fun he hph => ?_, fun he hph => ?_, fun he => timeoutEvent_of_not_expired hrun he _⟩
  · rw [timeoutEvent_of_expired hrun he, State.timedOutC_of_waitAck s hph]
    rfl
  · rw [timeoutEvent_of_expired hrun he, State.timedOutC_of_ready s hph]
    rfl

/-! ### The receiver (R206) -/

section
variable {s : State} {e : BitVec 8} (hr : s.regs = .receiverC e) {f : Frame}
include hr

theorem arrival_receiverC_eq_exec : arrival f s = exec (.rcRx f) s :=
  arrival_eq_exec_rxInstr f (role := .receiver) (v := .c) (by rw [hr]; rfl)

/-- R206 (a). -/
theorem arrival_receiverC_short (hrun : s.running = true) (hf : f.length ≤ headerSize .c + s.params.mss)
    (hshort : f.length < headerSize .c) : arrival f s = .next (s.emit [.framingError f.length]) := by
  simp [arrival, hr, execRcRx, rxEvent_of_fits hrun hf, onDecoded_of_short hshort]

variable {d : Decoded} (hf : s.Receives .c f d)
include hf

/-- R206 (b). -/
theorem arrival_receiverC_invalid (hbad : d.checksumOk = false) :
    arrival f s = .next (s.emit [.tx (Codec.control .c kindAck (e - 1).toNat)]) := by
  simp [arrival, hr, execRcRx, hf.rxEvent_eq, hf.onDecoded_eq, hbad]

/-- R206 (c). -/
theorem arrival_receiverC_not_data (hok : d.checksumOk = true) (hk : d.kind ≠ kindData) :
    arrival f s = .next s := by
  simp [arrival, hr, execRcRx, hf.rxEvent_eq, hf.onDecoded_eq, hok, hk]

/-- R206 (e). -/
theorem arrival_receiverC_other (hok : d.checksumOk = true) (hk : d.kind = kindData) (hq : d.seq ≠ some e.toNat) :
    arrival f s = .next (s.emit [.tx (Codec.control .c kindAck (e - 1).toNat)]) := by
  simp [arrival, hr, execRcRx, hf.rxEvent_eq, hf.onDecoded_eq, hok, hk, hq]

end

/-- The sequence before `e`, which an out-of-order arrival is answered with (R206). -/
theorem toNat_sub_one (e : BitVec 8) : (e - 1).toNat = (e.toNat + 255) % 256 := by
  rw [BitVec.toNat_sub, Nat.add_comm]
  rfl

/-- Settles O26, one `arrival_receiverC_` lemma for each branch. -/
theorem rcRxBranches : Obligations.RcRxBranches := by
  intro s e f prev hr hrun hfits hprev
  rw [← arrival_receiverC_eq_exec hr, hprev, ← toNat_sub_one]
  refine ⟨arrival_receiverC_short hr hrun hfits, fun d hd => ?_⟩
  have hf : s.Receives .c f d := ⟨hrun, hfits, hd⟩
  exact ⟨arrival_receiverC_invalid hr hf, arrival_receiverC_not_data hr hf,
    fun hok hk hq => ⟨e + 1, BitVec.toNat_add .., arrival_receiverC_data hok hr hf hk hq⟩,
    arrival_receiverC_other hr hf⟩

/-! ### No received frame makes a timed sender transmit (R210, R222) -/

section
variable {s t : State} {f : Frame}

/-- SC.RX answers next: nothing happens, FramingError, or the ACK that the sender waits for ends its wait (R202). -/
theorem execScRx_eq_next (h : execScRx f s = .next t) :
    t = s ∨ t = s.emit [.framingError f.length] ∨
      ∃ r d, s.regs = .senderC r ∧ r.phase = .waitAck ∧ Codec.decode .c f = .ok d ∧
        (d.checksumOk = true ∧ d.kind = kindAck ∧ d.seq = some r.currentSequence.toNat) ∧
        t = (s.setRegs (.senderC { r with
          phase := .ready, currentSequence := r.currentSequence + 1
          timer := r.timer.cancel (unspecifiedRemaining s.params.timeoutTicks s.draws) })).emit [.done none] := by
  unfold execScRx at h
  split at h
  · next r hr =>
    obtain ⟨_, rfl⟩ | ⟨_, _, h⟩ := rxEvent_eq_next h
    · exact .inl rfl
    · split at h
      · cases h
        exact .inl rfl
      · next hph =>
        obtain ⟨_, rfl⟩ | ⟨d, hd, h⟩ := onDecoded_eq_next h
        · exact .inr (.inl rfl)
        · split at h
          · next hack =>
            cases h
            exact .inr (.inr ⟨r, d, hr, hph, hd, hack, rfl⟩)
          · cases h
            exact .inl rfl
  · exact absurd h (misaddressed_ne_next s t)

/-- SD.RX answers next: nothing happens, FramingError, or a run of the window is acknowledged (R222). -/
theorem execSdRx_eq_next (h : execSdRx f s = .next t) :
    t = s ∨ t = s.emit [.framingError f.length] ∨ ∃ r q, s.regs = .senderD r ∧ acknowledge r q s = .next t := by
  unfold execSdRx at h
  split at h
  · next r hr =>
    obtain ⟨_, rfl⟩ | ⟨_, _, h⟩ := rxEvent_eq_next h
    · exact .inl rfl
    · obtain ⟨_, rfl⟩ | ⟨d, _, h⟩ := onDecoded_eq_next h
      · exact .inr (.inl rfl)
      · split at h
        · cases h
          exact .inl rfl
        · split at h
          · cases h
            exact .inl rfl
          · dsimp only at h
            split at h
            · exact .inr (.inr ⟨r, _, hr, h⟩)
            · cases h
              exact .inl rfl
  · exact absurd h (misaddressed_ne_next s t)

theorem transmitted_of_acknowledge {r : SenderD} {q : Seq32} (h : acknowledge r q s = .next t) :
    transmitted s t = [] := by
  obtain ⟨r', -, -, hack⟩ := acknowledge_eq r q s
  cases h.symm.trans hack
  simp [Output.frame]

theorem transmitted_of_execScRx (h : execScRx f s = .next t) : transmitted s t = [] := by
  obtain rfl | rfl | ⟨r, d, -, -, -, -, rfl⟩ := execScRx_eq_next h
  · exact transmitted_self t
  · simp [Output.frame]
  · simp [Output.frame]

theorem transmitted_of_execSdRx (h : execSdRx f s = .next t) : transmitted s t = [] := by
  obtain rfl | rfl | ⟨r, q, -, hack⟩ := execSdRx_eq_next h
  · exact transmitted_self t
  · simp [Output.frame]
  · exact transmitted_of_acknowledge hack

end

/-- Settles O51: the outputs of either handler are FramingError and completions. -/
theorem receivedFrameNeverRetransmitsInCAndD : Obligations.ReceivedFrameNeverRetransmitsInCAndD :=
  fun _ _ _ h => h.elim transmitted_of_execScRx transmitted_of_execSdRx

/-! ### What the two sides have counted (R208) -/

/-- The DATA frame of a payload that was sent, under the payload's place among the sent ones. -/
def IsSentData (v : Variant) (sent : List Frame) (f : Frame) : Prop :=
  ∃ q p, sent[q]? = some p ∧ f = Codec.encode v kindData q p

/-- The ACK of a payload that was delivered, or of sequence 255, which a receiver that has delivered nothing gives (R206). -/
def IsDeliveryAckC (delivered : List Frame) (f : Frame) : Prop :=
  ∃ q, (q < delivered.length ∨ q = 255) ∧ f = Codec.control .c kindAck q

theorem IsSentData.append {v : Variant} {sent : List Frame} {f : Frame} (h : IsSentData v sent f) (more : List Frame) :
    IsSentData v (sent ++ more) f := by
  obtain ⟨q, p, hp, hf⟩ := h
  exact ⟨q, p, by rwa [List.getElem?_append_left (List.getElem?_eq_some_iff.mp hp).1], hf⟩

theorem IsDeliveryAckC.append {delivered : List Frame} {f : Frame} (h : IsDeliveryAckC delivered f) (more : List Frame) :
    IsDeliveryAckC (delivered ++ more) f := by
  obtain ⟨q, hq, hf⟩ := h
  refine ⟨q, hq.imp_left fun hlt => ?_, hf⟩
  rw [List.length_append]
  omega

/-- The next element of a list continues a beginning of it. -/
theorem concat_prefix_of_getElem? {xs ys : List Frame} {p : Frame} (h : xs <+: ys) (hp : ys[xs.length]? = some p) :
    xs ++ [p] <+: ys := by
  obtain ⟨rest, rfl⟩ := h
  rw [List.getElem?_append_right (Nat.le_refl _), Nat.sub_self] at hp
  cases rest with
  | nil => cases hp
  | cons q rest =>
    cases hp
    exact ⟨rest, List.append_assoc xs [p] rest⟩

/-- Where a session of variant C stands before the counter has come round: the sender has counted the completed SENDs, the
receiver the delivered payloads, and every frame in flight is DATA that was sent or an ACK that was earned. -/
structure CountingC (r : SenderC) (e : BitVec 8) (sent delivered toReceiver toSender : List Frame) : Prop where
  ready : r.phase = .ready → r.currentSequence.toNat = sent.length
  waiting : r.phase = .waitAck → r.currentSequence.toNat + 1 = sent.length ∧ IsSentData .c sent r.lastPacket
  completed : r.currentSequence.toNat ≤ delivered.length
  expects : e.toNat = delivered.length
  inOrder : delivered <+: sent
  data : ∀ f ∈ toReceiver, IsSentData .c sent f
  acks : ∀ f ∈ toSender, IsDeliveryAckC delivered f

namespace CountingC
variable {r : SenderC} {e : BitVec 8} {sent delivered toReceiver toSender : List Frame}
  (h : CountingC r e sent delivered toReceiver toSender)
include h

theorem delivered_eq_sent (hph : r.phase = .ready) : delivered = sent :=
  h.inOrder.eq_of_length_le (h.ready hph ▸ h.completed)

/-- The timer has no part in what is counted. -/
theorem withTimer (tm : Timer) : CountingC { r with timer := tm } e sent delivered toReceiver toSender :=
  ⟨h.ready, h.waiting, h.completed, h.expects, h.inOrder, h.data, h.acks⟩

theorem eraseData (k : Nat) : CountingC r e sent delivered (toReceiver.eraseIdx k) toSender :=
  { h with data := fun f hf => h.data f (List.mem_of_mem_eraseIdx hf) }

theorem eraseAck (k : Nat) : CountingC r e sent delivered toReceiver (toSender.eraseIdx k) :=
  { h with acks := fun f hf => h.acks f (List.mem_of_mem_eraseIdx hf) }

/-- An accepted SEND is DATA of the counter, which is its payload's place among the sent ones. -/
theorem accept (hph : r.phase = .ready) (data : Frame) (tm : Timer) :
    CountingC
      { r with phase := .waitAck, lastPacket := Codec.encode .c kindData r.currentSequence.toNat data, timer := tm } e
      (sent ++ [data]) delivered (toReceiver ++ [Codec.encode .c kindData r.currentSequence.toNat data]) toSender := by
  have hnew : IsSentData .c (sent ++ [data]) (Codec.encode .c kindData r.currentSequence.toNat data) :=
    ⟨_, data, by rw [h.ready hph, List.getElem?_concat_length], rfl⟩
  exact { h with
    ready := nofun
    waiting := fun _ => ⟨by rw [List.length_append, h.ready hph]; rfl, hnew⟩
    inOrder := h.inOrder.trans (List.prefix_append sent [data])
    data := List.forall_mem_append.mpr
      ⟨fun f hf => (h.data f hf).append [data], List.forall_mem_singleton.mpr hnew⟩ }

theorem retransmit (hph : r.phase = .waitAck) :
    CountingC r e sent delivered (toReceiver ++ [r.lastPacket]) toSender :=
  { h with data := List.forall_mem_append.mpr ⟨h.data, List.forall_mem_singleton.mpr (h.waiting hph).2⟩ }

/-- An arrival that is not the expected DATA is answered by the ACK of the last one delivered, 255 if there is none. -/
theorem reply : CountingC r e sent delivered toReceiver (toSender ++ [Codec.control .c kindAck (e - 1).toNat]) := by
  have hprev : (e - 1).toNat < delivered.length ∨ (e - 1).toNat = 255 := by
    rw [toNat_sub_one, ← h.expects]
    omega
  exact { h with
    acks := List.forall_mem_append.mpr ⟨h.acks, List.forall_mem_singleton.mpr ⟨_, hprev, rfl⟩⟩ }

variable (hsent : sent.length < 2 ^ 8)
include hsent

/-- DATA of the expected sequence carries the next payload that was sent. -/
theorem deliver {p : Frame} (hp : sent[e.toNat]? = some p) :
    CountingC r (e + 1) sent (delivered ++ [p]) toReceiver (toSender ++ [Codec.control .c kindAck e.toNat]) := by
  rw [h.expects] at hp
  obtain ⟨hlt, -⟩ := List.getElem?_eq_some_iff.mp hp
  have hlen : (delivered ++ [p]).length = delivered.length + 1 := List.length_append
  have hnext : (e + 1).toNat = delivered.length + 1 := by
    rw [← h.expects, BitVec.toNat_add_of_lt (by rw [h.expects]; exact Nat.lt_of_le_of_lt hlt hsent)]
    rfl
  exact { h with
    completed := hlen ▸ Nat.le_succ_of_le h.completed
    expects := hlen ▸ hnext
    inOrder := concat_prefix_of_getElem? h.inOrder hp
    acks := List.forall_mem_append.mpr ⟨fun f hf => (h.acks f hf).append _,
      List.forall_mem_singleton.mpr ⟨_, .inl (by rw [hlen, h.expects]; exact Nat.lt_succ_self _), rfl⟩⟩ }

/-- The ACK of the counter was earned by a delivery: with fewer than 256 SENDs a waiting sender's counter is not 255. -/
theorem complete (hph : r.phase = .waitAck)
    (hack : r.currentSequence.toNat < delivered.length ∨ r.currentSequence.toNat = 255) (tm : Timer) :
    CountingC { r with phase := .ready, currentSequence := r.currentSequence + 1, timer := tm } e sent delivered toReceiver
      toSender := by
  obtain ⟨hcount, -⟩ := h.waiting hph
  have hnext : (r.currentSequence + 1).toNat = r.currentSequence.toNat + 1 :=
    BitVec.toNat_add_of_lt (hcount ▸ hsent)
  have hearned : r.currentSequence.toNat < delivered.length := hack.resolve_right (by omega)
  exact { h with
    ready := fun _ => hnext.trans hcount
    waiting := nofun
    completed := hnext ▸ hearned }

end CountingC

/-! ### Every action keeps the count -/

/-- The invariant of R208, while the sequences have not come round (R335). -/
def Session.CountsC (w : Session) : Prop :=
  w.sent.length < 2 ^ 8 → ∃ r e, w.sender.regs = .senderC r ∧ w.receiver.regs = .receiverC e ∧
    CountingC r e w.sent w.receiver.delivered w.toReceiver w.toSender

theorem countsC_fresh (p : Params) : (Session.fresh .c p).CountsC := fun _ =>
  ⟨_, _, rfl, rfl, fun _ => rfl, nofun, Nat.le_refl 0, rfl, List.prefix_refl _, nofun, nofun⟩

/-- What a frame in flight decodes to where it arrives: itself, or no valid record. -/
theorem decode_arriving {v : Variant} {kind : Byte} {q : Nat} {p f : Frame} (hq : seqInDomain v q = true)
    (h : f = Codec.encode v kind q p ∨ ∃ d, Codec.decode v f = .ok d ∧ d.checksumOk = false) :
    ∃ d, Codec.decode v f = .ok d ∧ (d.checksumOk = false ∨
      d = { kind := kind, seq := (if v = .a then none else some q), checksumOk := true, payload := p }) := by
  obtain rfl | ⟨d, hd, hbad⟩ := h
  · exact ⟨_, decode_encode kind p hq, .inr rfl⟩
  · exact ⟨d, hd, .inl hbad⟩

section
variable {w w' : Session}

/-- TICK runs at the timer of the sender (R258). -/
theorem Session.act_tick_eq_some (h : w.act .tick = some w') : ∃ v t, exec (.tmrTick v) w.sender = .next t ∧
    w' = { w with sender := t, toReceiver := w.toReceiver ++ transmitted w.sender t } := by
  simp only [Session.act] at h
  split at h
  · exact ⟨.c, Session.afterSender_eq_some h⟩
  · exact ⟨.d, Session.afterSender_eq_some h⟩
  · cases h

theorem Session.act_timeout_eq_some (h : w.act .timeout = some w') :
    ∃ i t, w.sender.regs.timeoutInstr = some i ∧ exec i w.sender = .next t ∧
      w' = { w with sender := t, toReceiver := w.toReceiver ++ transmitted w.sender t } := by
  simp only [Session.act] at h
  split at h
  · cases h
  · next i hi =>
    obtain ⟨t, ht, rfl⟩ := Session.afterSender_eq_some h
    exact ⟨i, t, hi, ht, rfl⟩

/-- A SEND that is discarded or held counts nothing; one that is accepted transmits DATA of the next place. -/
theorem Session.CountsC.present {data : Frame} (hw : w.CountsC) (h : w.present data = some w') : w'.CountsC := by
  obtain ⟨i, t, hi, ht, rfl⟩ := Session.present_eq_some h
  intro hlt
  have hsent : w.sent.length < 2 ^ 8 := by
    refine Nat.lt_of_le_of_lt ?_ hlt
    dsimp only
    split <;> simp
  obtain ⟨r, e, hs, hr, hc⟩ := hw hsent
  obtain rfl : i = .scSend data := by
    rw [Regs.sendInstr, hs] at hi
    exact (Option.some.inj hi).symm
  rw [exec_scSend hs] at ht
  obtain ⟨hstop, rfl⟩ | ⟨_, hwait, rfl⟩ | ⟨hrun, hready, _, ht⟩ := sendEvent_eq_next ht
  · exact ⟨r, e, hs, hr, by simpa [hstop] using hc⟩
  · have hno : w.sender.canAccept = false := by rw [State.canAccept, hs]; exact hwait
    exact ⟨r, e, hs, hr, by simpa [hno] using hc⟩
  · cases ht
    have hph : r.phase = .ready := eq_of_beq hready
    have hyes : w.sender.canAccept = true := (canAccept_senderC hs).mpr hph
    refine ⟨_, e, rfl, hr, ?_⟩
    simpa [hrun, hyes, State.acceptC, Output.frame] using hc.accept hph data (r.timer.arm w.sender.params.timeoutTicks)

/-- A frame to the receiver is DATA that was sent: of the expected sequence it is delivered, any other is answered by the
last ACK. -/
theorem Session.CountsC.deliverToReceiver {k : Nat} {changes : List (Nat × Byte)} (hw : w.CountsC)
    (hdet : (Action.deliverToReceiver k changes).DetectedIn .c w)
    (h : w.act (.deliverToReceiver k changes) = some w') : w'.CountsC := by
  obtain ⟨f, t, hf, ht, rfl⟩ := Session.act_deliverToReceiver_eq_some h
  intro hlt
  obtain ⟨r, e, hs, hr, hc⟩ := hw hlt
  obtain ⟨q, p, hp, rfl⟩ := hc.data f (List.mem_of_getElem? hf)
  have hq : q < 2 ^ 8 := Nat.lt_trans (List.getElem?_eq_some_iff.mp hp).1 hlt
  obtain ⟨d, hd, hcase⟩ := decode_arriving (v := .c) (decide_eq_true hq) (hdet _ hf)
  replace hc := hc.eraseData k
  have hreply := hc.reply
  have hid : w.receiver.regs.identity = some (.receiver, .c) := by rw [hr]; rfl
  obtain rfl | hrec := stopped_or_receives_of_arrival hid hd ht
  · exact ⟨r, e, hs, hr, by simpa using hc⟩
  · obtain hbad | rfl := hcase
    · cases (arrival_receiverC_invalid hr hrec hbad).symm.trans ht
      exact ⟨r, e, hs, hr, by simpa [List.filterMap, Output.payload, Output.frame] using hreply⟩
    · by_cases hexp : q = e.toNat
      · subst hexp
        cases (arrival_receiverC_data rfl hr hrec rfl rfl).symm.trans ht
        exact ⟨r, e + 1, hs, rfl, by simpa [List.filterMap, Output.payload, Output.frame] using hc.deliver hlt hp⟩
      · cases (arrival_receiverC_other hr hrec rfl rfl (by simpa using hexp)).symm.trans ht
        exact ⟨r, e, hs, hr, by simpa [List.filterMap, Output.payload, Output.frame] using hreply⟩

/-- A frame to the sender is an ACK: that of the counter completes the SEND, and nothing else moves the sender. -/
theorem Session.CountsC.deliverToSender {k : Nat} {changes : List (Nat × Byte)} (hw : w.CountsC)
    (hdet : (Action.deliverToSender k changes).DetectedIn .c w)
    (h : w.act (.deliverToSender k changes) = some w') : w'.CountsC := by
  obtain ⟨f, t, hf, ht, rfl⟩ := Session.act_deliverToSender_eq_some h
  intro hlt
  obtain ⟨r, e, hs, hr, hc⟩ := hw hlt
  obtain ⟨q, hq, rfl⟩ := hc.acks f (List.mem_of_getElem? hf)
  have hq8 : q < 2 ^ 8 :=
    hq.elim (fun hq => Nat.lt_trans (Nat.lt_of_lt_of_le hq hc.inOrder.length_le) hlt) (fun hq => hq ▸ by decide)
  obtain ⟨d, hd, hcase⟩ := decode_arriving (v := .c) (decide_eq_true hq8) (hdet _ hf)
  replace hc := hc.eraseAck k
  rw [arrival_senderC_eq_exec hs] at ht
  rw [transmitted_of_execScRx ht, List.append_nil]
  obtain rfl | rfl | ⟨r', d', hs', hph, hd', ⟨hok, -, hseq⟩, rfl⟩ := execScRx_eq_next ht
  · exact ⟨r, e, hs, hr, hc⟩
  · exact ⟨r, e, hs, hr, hc⟩
  · cases hs.symm.trans hs'
    cases hd.symm.trans hd'
    obtain hbad | rfl := hcase
    · exact absurd (hok.symm.trans hbad) nofun
    · obtain rfl : q = r.currentSequence.toNat := Option.some.inj hseq
      exact ⟨_, e, rfl, hr, hc.complete hlt hph hq _⟩

/-- A frame that the channel loses was counted by nobody (R300). -/
theorem Session.CountsC.drop {k : Nat} (hw : w.CountsC)
    (h : w.act (.dropToReceiver k) = some w' ∨ w.act (.dropToSender k) = some w') : w'.CountsC := by
  simp only [Session.act, Option.ite_none_right_eq_some, Option.some.injEq] at h
  obtain ⟨_, rfl⟩ | ⟨_, rfl⟩ := h
  · intro hlt
    obtain ⟨r, e, hs, hr, hc⟩ := hw hlt
    exact ⟨r, e, hs, hr, hc.eraseData k⟩
  · intro hlt
    obtain ⟨r, e, hs, hr, hc⟩ := hw hlt
    exact ⟨r, e, hs, hr, hc.eraseAck k⟩

/-- TICK moves only the timer. -/
theorem Session.CountsC.tick (hw : w.CountsC) (h : w.act .tick = some w') : w'.CountsC := by
  obtain ⟨v, t, ht, rfl⟩ := Session.act_tick_eq_some h
  intro hlt
  obtain ⟨r, e, hs, hr, hc⟩ := hw hlt
  obtain ⟨r', -, hs', rfl⟩ | ⟨r', -, hs', rfl⟩ := onTimer_eq_next ht
  · cases hs.symm.trans hs'
    exact ⟨_, e, rfl, hr, by simpa using hc.withTimer _⟩
  · cases hs.symm.trans hs'

/-- A sender that times out transmits the stored frame again, or nothing. -/
theorem Session.CountsC.timeout (hw : w.CountsC) (h : w.act .timeout = some w') : w'.CountsC := by
  obtain ⟨i, t, hi, ht, rfl⟩ := Session.act_timeout_eq_some h
  intro hlt
  obtain ⟨r, e, hs, hr, hc⟩ := hw hlt
  obtain rfl : i = .scTimeout := by
    rw [Regs.timeoutInstr, hs] at hi
    exact (Option.some.inj hi).symm
  rw [exec_scTimeout hs] at ht
  obtain ⟨_, rfl⟩ | ⟨_, _, ht⟩ := timeoutEvent_eq_next ht
  · exact ⟨r, e, hs, hr, by simpa using hc⟩
  · cases ht
    cases hph : r.phase with
    | ready =>
      rw [State.timedOutC_of_ready w.sender hph]
      exact ⟨_, e, rfl, hr, by simpa using hc.withTimer _⟩
    | waitAck =>
      rw [State.timedOutC_of_waitAck w.sender hph, transmitted_setRegs_emit]
      exact ⟨_, e, rfl, hr, (hc.retransmit hph).withTimer _⟩

/-- SHUTDOWN writes only the sender's timer (R290). -/
theorem Session.CountsC.shutdown {side : Role} (hw : w.CountsC) (h : w.act (.shutdown side) = some w') :
    w'.CountsC := by
  cases side with
  | sender =>
    obtain ⟨u, rfl⟩ := Session.act_shutdown_sender_eq_some h
    intro hlt
    obtain ⟨r, e, hs, hr, hc⟩ := hw hlt
    exact ⟨_, e, congrArg (shutdownRegs u) hs, hr, hc.withTimer _⟩
  | receiver =>
    obtain ⟨u, rfl⟩ := Session.act_shutdown_receiver_eq_some h
    intro hlt
    obtain ⟨r, e, hs, hr, hc⟩ := hw hlt
    exact ⟨r, e, hs, congrArg (shutdownRegs u) hr, hc⟩

theorem Session.CountsC.act {a : Action} (hw : w.CountsC) (allowed : a.isReset = false ∧ a.DetectedIn .c w)
    (h : w.act a = some w') : w'.CountsC := by
  obtain ⟨hreset, hdet⟩ := allowed
  cases a with
  | send data => exact hw.present h
  | resume =>
    obtain ⟨data, rest, h⟩ := Session.act_resume_eq_some h
    have hheld : Session.CountsC { w with sender := { w.sender with held := rest } } := hw
    exact hheld.present h
  | tick => exact hw.tick h
  | timeout => exact hw.timeout h
  | deliverToReceiver k changes => exact hw.deliverToReceiver hdet h
  | deliverToSender k changes => exact hw.deliverToSender hdet h
  | dropToReceiver k => exact hw.drop (.inl h)
  | dropToSender k => exact hw.drop (.inr h)
  | reset side cfg => cases hreset
  | shutdown side => exact hw.shutdown h

end

/-- Settles O56: the count holds right after RESET of both sides and is kept by every allowed action. -/
theorem variantCDeliversExactlyOnce : Obligations.VariantCDeliversExactlyOnce := by
  intro p w h hlt
  obtain ⟨r, e, hs, _, hc⟩ := h.invariant Session.CountsC.act (countsC_fresh p) hlt
  refine ⟨hc.inOrder, fun hpending => hc.delivered_eq_sent ?_⟩
  rw [hs] at hpending
  cases hph : r.phase with
  | ready => rfl
  | waitAck => simp [Regs.sendPending, hph] at hpending

end Sys2Proof.Machine
end

section
/-! PROOFS. Variant D (44_variant_D_go_back_n.md): what an event leaves in the sender's registers, its buffer and its window,
and the handlers of both roles (R220 to R228). -/

namespace Sys2Proof.Machine

/-! ### The sender's registers after a SEND and after an acknowledgment -/

/-- The registers right after a SEND is accepted (R220). -/
def SenderD.accept (r : SenderD) (ticks : Nat) (data : Frame) : SenderD :=
  { r with
    buffer := r.buffer.write r.nextToSend (Codec.encode .d kindData r.nextToSend.toNat data)
    nextToSend := r.nextToSend + 1
    timer := if r.base = r.nextToSend then r.timer.arm ticks else r.timer }

/-- The registers right after the run `base .. q` is acknowledged (R222 (e)). -/
def SenderD.advance (r : SenderD) (unspecified ticks : Nat) (q : Seq32) : SenderD :=
  { r with
    buffer := r.buffer.eraseAll (seqRun r.base ((q - r.base).toNat + 1))
    base := q + 1
    timer := if q + 1 = r.nextToSend then r.timer.cancel unspecified else r.timer.restart unspecified ticks }

namespace SenderD
variable (r : SenderD)

theorem windowOpen_iff (n : Nat) : r.windowOpen n = true ↔ r.outstanding < n := decide_eq_true_iff

section
variable (ticks : Nat) (data : Frame)

theorem wf_accept (h : r.buffer.wf) : (r.accept ticks data).buffer.wf := Memory.wf_write _ _ _ h

theorem read_accept (h : r.buffer.wf) (x : Seq32) : (r.accept ticks data).buffer.read x =
    if x = r.nextToSend then some (Codec.encode .d kindData r.nextToSend.toNat data) else r.buffer.read x :=
  Memory.read_write _ _ _ x h

variable (hroom : r.outstanding < 2 ^ 32 - 1)
include hroom

/-- One packet more is outstanding: with room in the window the count does not come round. -/
theorem outstanding_accept : (r.accept ticks data).outstanding = r.outstanding + 1 := by
  simp only [outstanding, accept] at hroom ⊢
  bv_omega

theorem insideWindow_accept (x : Seq32) :
    (r.accept ticks data).insideWindow x = true ↔ x = r.nextToSend ∨ r.insideWindow x = true := by
  simp only [insideWindow_eq_true, outstanding, accept] at hroom ⊢
  bv_omega

end

section
variable (unspecified ticks : Nat) {q : Seq32}

theorem wf_advance (h : r.buffer.wf) : (r.advance unspecified ticks q).buffer.wf := Memory.wf_eraseAll _ _ h

/-- Exactly the acknowledged sequences leave the buffer. -/
theorem read_advance (x : Seq32) : (r.advance unspecified ticks q).buffer.read x =
    if (x - r.base).toNat ≤ (q - r.base).toNat then none else r.buffer.read x := by
  have hrun : x ∈ seqRun r.base ((q - r.base).toNat + 1) ↔ (x - r.base).toNat ≤ (q - r.base).toNat := by
    rw [mem_seqRun _ _ _ (q - r.base).isLt, Nat.lt_succ_iff]
  simp only [advance, Memory.read_eraseAll, hrun]

variable (hq : r.insideWindow q = true)
include hq

theorem outstanding_advance :
    (r.advance unspecified ticks q).outstanding + ((q - r.base).toNat + 1) = r.outstanding := by
  simp only [insideWindow_eq_true, outstanding, advance] at hq ⊢
  bv_omega

theorem insideWindow_advance (x : Seq32) : (r.advance unspecified ticks q).insideWindow x = true ↔
    (q - r.base).toNat < (x - r.base).toNat ∧ r.insideWindow x = true := by
  simp only [insideWindow_eq_true, advance] at hq ⊢
  bv_omega

end

end SenderD

/-! ### The sender: SEND (R220) -/

/-- A variant-D sender with registers `r` right after it has accepted a SEND. -/
def State.acceptD (s : State) (r : SenderD) (data : Frame) : State :=
  (s.setRegs (.senderD (r.accept s.params.timeoutTicks data))).emit
    [.tx (Codec.encode .d kindData r.nextToSend.toNat data)]

section
variable {s : State} {r : SenderD} (hr : s.regs = .senderD r)
include hr

theorem exec_sdSend (data : Frame) :
    exec (.sdSend data) s = sendEvent (r.windowOpen s.params.n) data s (.next (s.acceptD r data)) := by
  simp only [exec, execSdSend, hr]
  rfl

theorem canAccept_senderD : s.canAccept = r.windowOpen s.params.n := by rw [State.canAccept, hr]

end

/-- Settles O27: the SEND event by room and length, and `available_held_iff` for what lifts the hold. -/
theorem sdSendBuffersAndTransmits : Obligations.SdSendBuffersAndTransmits := by
  intro s r data hr hrun hwf
  rw [exec_sdSend hr]
  refine ⟨fun hroom hl => ⟨_, r.wf_accept s.params.timeoutTicks data hwf, r.read_accept _ data hwf, ?_⟩,
    fun hfull => ⟨s.held ++ [data], List.perm_append_singleton data s.held, ?_⟩, fun hroom hl => ?_, fun hheld => ?_⟩
  · rw [(r.windowOpen_iff _).mpr hroom]
    exact sendEvent_of_ready hrun hl _
  · rw [Bool.eq_false_iff.mpr (mt (r.windowOpen_iff _).mp (Nat.not_lt.mpr hfull))]
    exact sendEvent_of_not_ready hrun data _
  · rw [(r.windowOpen_iff _).mpr hroom]
    exact sendEvent_of_tooLong hrun hl _
  · rw [available_held_iff hrun (v := .d) (by rw [hr]; rfl) hheld, canAccept_senderD hr]
    exact r.windowOpen_iff _

/-! ### The sender: RX (R222) -/

theorem acknowledge_eq_advance (r : SenderD) (q : Seq32) (s : State) : acknowledge r q s =
    .next ((s.setRegs (.senderD
      (r.advance (unspecifiedRemaining s.params.timeoutTicks s.draws) s.params.timeoutTicks q))).emit
        ((List.range ((q - r.base).toNat + 1)).map fun i => .done (some (r.base + BitVec.ofNat 32 i)))) := by
  simp only [acknowledge, SenderD.advance]
  rw [seqRun_eq, List.map_map]
  rfl

section
variable {s : State} {r : SenderD} (hr : s.regs = .senderD r) {f : Frame}
include hr

theorem arrival_senderD_eq_exec : arrival f s = exec (.sdRx f) s :=
  arrival_eq_exec_rxInstr f (role := .sender) (v := .d) (by rw [hr]; rfl)

/-- R222 (a). -/
theorem arrival_senderD_short (hrun : s.running = true) (hf : f.length ≤ headerSize .d + s.params.mss)
    (hshort : f.length < headerSize .d) : arrival f s = .next (s.emit [.framingError f.length]) := by
  simp [arrival, hr, execSdRx, rxEvent_of_fits hrun hf, onDecoded_of_short hshort]

variable {d : Decoded} (hf : s.Receives .d f d)
include hf

/-- R222 (b), (c). -/
theorem arrival_senderD_not_ack (h : d.checksumOk = false ∨ d.kind ≠ kindAck) : arrival f s = .next s := by
  simp only [arrival, hr, execSdRx, hf.rxEvent_eq, hf.onDecoded_eq]
  split
  · rfl
  · next hok => rw [if_pos (h.resolve_left hok), discard_eq]

/-- R222 (d). -/
theorem arrival_senderD_outside {q : Seq32} (hq : d.seq = some q.toNat) (hout : r.insideWindow q = false) :
    arrival f s = .next s := by
  simp [arrival, hr, execSdRx, hf.rxEvent_eq, hf.onDecoded_eq, hq, hout]

end

/-- Settles O28, one `arrival_senderD_` lemma for each branch; the timer that is left with nothing outstanding is
`Timer.exists_cancel_eq`'s. -/
theorem sdRxBranches : Obligations.SdRxBranches := by
  intro s r f hr hrun hfits hwf hleft
  rw [← arrival_senderD_eq_exec hr]
  refine ⟨arrival_senderD_short hr hrun hfits, fun d hd => ?_⟩
  have hf : s.Receives .d f d := ⟨hrun, hfits, hd⟩
  refine ⟨arrival_senderD_not_ack hr hf, fun q hok hk hq => ⟨fun hout => ?_, fun hin => ?_⟩⟩
  · exact arrival_senderD_outside hr hf hq ((insideWindow_eq_false r q).mpr hout)
  · obtain ⟨left, hle, hcancel⟩ := Timer.exists_cancel_eq (unspecifiedRemaining_le s.params.timeoutTicks s.draws) hleft
    refine ⟨_, left, r.wf_advance _ s.params.timeoutTicks hwf, hle, r.read_advance
      (unspecifiedRemaining s.params.timeoutTicks s.draws) s.params.timeoutTicks, ?_⟩
    rw [arrival_senderD_ack hok hr hf hk hq ((insideWindow_eq_true r q).mpr hin), acknowledge_eq_advance,
      SenderD.advance, hcancel]
    rfl

/-! ### The sender: TIMEOUT (R224) -/

section
variable {s : State} {r : SenderD} (hr : s.regs = .senderD r)
include hr

theorem exec_sdTimeout_idle (hidle : r.base = r.nextToSend) :
    exec .sdTimeout s = timeoutEvent r.timer s (.next (s.setRegs (.senderD { r with timer := r.timer.service }))) := by
  simp only [exec, execSdTimeout, hr, if_pos hidle]

/-- The frames of the window go out in the order of their sequences from `base`. -/
theorem exec_sdTimeout_of_readAll {frames : List Frame} (hout : r.base ≠ r.nextToSend)
    (hread : r.buffer.readAll (seqRun r.base r.outstanding) = .ok frames) :
    exec .sdTimeout s = timeoutEvent r.timer s (.next
      ((s.setRegs (.senderD { r with timer := r.timer.service.arm s.params.timeoutTicks })).emit (frames.map .tx))) := by
  simp only [exec, execSdTimeout, hr, if_neg hout, hread]

theorem exec_sdTimeout_not_expired (hrun : s.running = true) (he : r.timer.expired = false) :
    exec .sdTimeout s = .refused .timeoutNotEnabled := by
  simp only [exec, execSdTimeout, hr]
  exact timeoutEvent_of_not_expired hrun he _

end

/-- Reading `b`, `b + 1`, ... frame by frame is reading the run from `b`. -/
theorem Memory.readAll_seqRun {m : Memory} {b : Seq32} {frames : List Frame}
    (h : ∀ i, i < frames.length → m.read (b + BitVec.ofNat 32 i) = frames[i]?) :
    m.readAll (seqRun b frames.length) = .ok frames := by
  rw [Memory.readAll_eq_ok, seqRun_eq, List.map_map]
  refine List.ext_getElem (by simp) fun i hi _ => ?_
  have hlt : i < frames.length := by simpa using hi
  simp [h i hlt, hlt]

/-- Settles O29: the TIMEOUT event by `expired`, its answer by what is outstanding. -/
theorem sdTimeoutGoesBackN : Obligations.SdTimeoutGoesBackN := by
  intro s r hr hrun
  refine ⟨fun he hout frames hlen hframes => ?_, fun he hidle => ?_, exec_sdTimeout_not_expired hr hrun⟩
  · have hread : r.buffer.readAll (seqRun r.base r.outstanding) = .ok frames := by
      rw [show r.outstanding = frames.length from hlen.symm]
      exact Memory.readAll_seqRun hframes
    rw [exec_sdTimeout_of_readAll hr hout hread, timeoutEvent_of_expired hrun he]
    rfl
  · rw [exec_sdTimeout_idle hr hidle, timeoutEvent_of_expired hrun he]
    rfl

/-! ### The receiver (R228) -/

section
variable {s : State} {e : Seq32} (hr : s.regs = .receiverD e) {f : Frame}
include hr

theorem arrival_receiverD_eq_exec : arrival f s = exec (.rdRx f) s :=
  arrival_eq_exec_rxInstr f (role := .receiver) (v := .d) (by rw [hr]; rfl)

/-- R228 (a). -/
theorem arrival_receiverD_short (hrun : s.running = true) (hf : f.length ≤ headerSize .d + s.params.mss)
    (hshort : f.length < headerSize .d) : arrival f s = .next (s.emit [.framingError f.length]) := by
  simp [arrival, hr, execRdRx, rxEvent_of_fits hrun hf, onDecoded_of_short hshort]

variable {d : Decoded} (hf : s.Receives .d f d)
include hf

/-- R228 (b). -/
theorem arrival_receiverD_invalid (hbad : d.checksumOk = false) :
    arrival f s = .next (s.emit [.tx (Codec.control .d kindAck (e - 1).toNat)]) := by
  simp [arrival, hr, execRdRx, hf.rxEvent_eq, hf.onDecoded_eq, hbad]

/-- R228 (c). -/
theorem arrival_receiverD_not_data (hok : d.checksumOk = true) (hk : d.kind ≠ kindData) :
    arrival f s = .next s := by
  simp [arrival, hr, execRdRx, hf.rxEvent_eq, hf.onDecoded_eq, hok, hk]

/-- R228 (e). -/
theorem arrival_receiverD_other (hok : d.checksumOk = true) (hk : d.kind = kindData) (hq : d.seq ≠ some e.toNat) :
    arrival f s = .next (s.emit [.tx (Codec.control .d kindAck (e - 1).toNat)]) := by
  simp [arrival, hr, execRdRx, hf.rxEvent_eq, hf.onDecoded_eq, hok, hk, hq]

end

/-- The sequence before `e`, modulo 2^32, which an out-of-order arrival is answered with (R228). -/
theorem toNat_seq32_sub_one (e : Seq32) : (e - 1).toNat = (e.toNat + (2 ^ 32 - 1)) % 2 ^ 32 := by
  rw [BitVec.toNat_sub, Nat.add_comm]
  rfl

/-- Settles O30, one `arrival_receiverD_` lemma for each branch. -/
theorem rdRxBranches : Obligations.RdRxBranches := by
  intro s e f prev hr hrun hfits hprev
  rw [← arrival_receiverD_eq_exec hr, hprev, ← toNat_seq32_sub_one]
  refine ⟨arrival_receiverD_short hr hrun hfits, fun d hd => ?_⟩
  have hf : s.Receives .d f d := ⟨hrun, hfits, hd⟩
  exact ⟨arrival_receiverD_invalid hr hf, arrival_receiverD_not_data hr hf,
    fun hok hk hq => ⟨e + 1, BitVec.toNat_add .., arrival_receiverD_data hok hr hf hk hq⟩,
    arrival_receiverD_other hr hf⟩

end Sys2Proof.Machine
end

section
/-! PROOFS. Sound states (10_state.md R33, 20_memory.md R62 and R63, 44_variant_D_go_back_n.md R226): every step keeps a sound
state sound, and every handler keeps the timer idle exactly when nothing is outstanding. -/

namespace Sys2Proof.Machine

/-! ### Soundness of a timed sender -/

/-- What `State.Sound` asks of a variant-C sender. -/
structure SenderC.Sound (p : Params) (r : SenderC) : Prop where
  ticks : 1 ≤ p.timeoutTicks
  timer : r.timer.Sound p.timeoutTicks
  stored : r.phase = .waitAck → IsDataFrame .c r.currentSequence.toNat p.mss r.lastPacket

/-- What `State.Sound` asks of a variant-D sender. -/
structure SenderD.Sound (p : Params) (running : Bool) (r : SenderD) : Prop where
  ticks : 1 ≤ p.timeoutTicks
  n_pos : 1 ≤ p.n
  n_le : p.n ≤ 2 ^ 32 - 1
  timer : r.timer.Sound p.timeoutTicks
  wf : r.buffer.wf
  outstanding_le : r.outstanding ≤ p.n
  window : running = true → r.BufferIsWindow p.mss

section
variable {s : State}

theorem sound_iff_of_senderC {r : SenderC} (hr : s.regs = .senderC r) : s.Sound ↔ r.Sound s.params := by
  simp only [State.Sound, hr]
  exact ⟨fun ⟨ht, htm, hp⟩ => ⟨ht, htm, hp⟩, fun ⟨ht, htm, hp⟩ => ⟨ht, htm, hp⟩⟩

theorem sound_iff_of_senderD {r : SenderD} (hr : s.regs = .senderD r) : s.Sound ↔ r.Sound s.params s.running := by
  simp only [State.Sound, hr]
  exact ⟨fun ⟨ht, hn, hn', htm, hwf, ho, hw⟩ => ⟨ht, hn, hn', htm, hwf, ho, hw⟩,
    fun ⟨ht, hn, hn', htm, hwf, ho, hw⟩ => ⟨ht, hn, hn', htm, hwf, ho, hw⟩⟩

/-- Soundness reads the configuration, `running` and the registers. -/
theorem State.Sound.of_eq {t : State} (hs : s.Sound) (hp : t.params = s.params) (hrun : t.running = s.running)
    (hregs : t.regs = s.regs) : t.Sound := by
  simpa only [State.Sound, hp, hrun, hregs] using hs

theorem State.Sound.emit (hs : s.Sound) (os : List Output) : (s.emit os).Sound := hs.of_eq rfl rfl rfl

theorem SenderC.Sound.setRegs {r : SenderC} (h : r.Sound s.params) : (s.setRegs (.senderC r)).Sound :=
  (sound_iff_of_senderC rfl).mpr h

theorem SenderD.Sound.setRegs {r : SenderD} (h : r.Sound s.params s.running) : (s.setRegs (.senderD r)).Sound :=
  (sound_iff_of_senderD rfl).mpr h

end

theorem SenderC.Sound.withTimer {p : Params} {r : SenderC} (h : r.Sound p) {tm : Timer}
    (htm : tm.Sound p.timeoutTicks) : SenderC.Sound p { r with timer := tm } :=
  { h with timer := htm }

theorem SenderD.Sound.withTimer {p : Params} {running : Bool} {r : SenderD} (h : r.Sound p running) {tm : Timer}
    (htm : tm.Sound p.timeoutTicks) : SenderD.Sound p running { r with timer := tm } :=
  { h with timer := htm }

/-! ### The buffer stays the window (R226 (1) to (3)) -/

section
variable {r : SenderD} {mss : Nat}

/-- The buffer is the window: a frame is stored exactly for the sequences inside, and it is their DATA frame. -/
theorem SenderD.bufferIsWindow_iff : r.BufferIsWindow mss ↔ ∀ q,
    (∀ f, r.buffer.read q = some f → r.insideWindow q = true ∧ IsDataFrame .d q.toNat mss f) ∧
      (r.buffer.read q = none → r.insideWindow q = false) := by
  refine forall_congr' fun q => ?_
  cases r.buffer.read q <;> simp

theorem SenderD.bufferIsWindow_of_empty (hb : r.buffer = []) (ho : r.outstanding = 0) : r.BufferIsWindow mss := by
  rw [bufferIsWindow_iff, hb]
  exact fun q => ⟨nofun, fun _ => (insideWindow_eq_false r q).mpr (Nat.le_trans (Nat.le_of_eq ho) (Nat.zero_le _))⟩

/-- A new packet's sequence becomes part of the window, and its DATA frame is stored for it. -/
theorem SenderD.BufferIsWindow.accept (h : r.BufferIsWindow mss) (hwf : r.buffer.wf)
    (hroom : r.outstanding < 2 ^ 32 - 1) {data : Frame} (hl : data.length ≤ mss) (ticks : Nat) :
    (r.accept ticks data).BufferIsWindow mss := by
  rw [bufferIsWindow_iff] at h ⊢
  intro q
  obtain ⟨hstored, hfree⟩ := h q
  rw [r.read_accept ticks data hwf, Bool.eq_false_iff, Ne, r.insideWindow_accept ticks data hroom]
  by_cases hq : q = r.nextToSend
  · subst hq
    have hdata : IsDataFrame .d r.nextToSend.toNat mss (Codec.encode .d kindData r.nextToSend.toNat data) :=
      ⟨data, hl, rfl⟩
    simp [hdata]
  · simpa [hq] using ⟨hstored, hfree⟩

/-- The acknowledged sequences leave the window and the buffer. -/
theorem SenderD.BufferIsWindow.advance (h : r.BufferIsWindow mss) {q : Seq32} (hq : r.insideWindow q = true)
    (unspecified ticks : Nat) : (r.advance unspecified ticks q).BufferIsWindow mss := by
  rw [bufferIsWindow_iff] at h ⊢
  intro x
  obtain ⟨hstored, hfree⟩ := h x
  rw [r.read_advance, Bool.eq_false_iff, Ne, r.insideWindow_advance _ _ hq]
  by_cases hx : (x - r.base).toNat ≤ (q - r.base).toNat
  · rw [if_pos hx]
    exact ⟨nofun, fun _ hin => absurd hx (Nat.not_le.mpr hin.1)⟩
  · rw [if_neg hx]
    exact ⟨fun f hf => ⟨⟨Nat.not_le.mp hx, (hstored f hf).1⟩, (hstored f hf).2⟩,
      fun hnone hin => absurd (hfree hnone) (by simp [hin.2])⟩

variable {p : Params} {running : Bool} (h : r.Sound p running)
include h

theorem SenderD.Sound.room (hw : r.outstanding < p.n) : r.outstanding < 2 ^ 32 - 1 := Nat.lt_of_lt_of_le hw h.n_le

theorem SenderD.Sound.accept (hw : r.outstanding < p.n) {data : Frame} (hl : data.length ≤ p.mss) :
    (r.accept p.timeoutTicks data).Sound p running where
  ticks := h.ticks
  n_pos := h.n_pos
  n_le := h.n_le
  timer := by
    rw [SenderD.accept]
    split
    · exact Timer.arm_sound _ r.timer h.ticks
    · exact h.timer
  wf := r.wf_accept _ _ h.wf
  outstanding_le := by rw [r.outstanding_accept _ _ (h.room hw)]; exact hw
  window hrun := (h.window hrun).accept h.wf (h.room hw) hl _

theorem SenderD.Sound.advance {q : Seq32} (hq : r.insideWindow q = true) {unspecified : Nat}
    (hu : unspecified ≤ p.timeoutTicks) : (r.advance unspecified p.timeoutTicks q).Sound p running where
  ticks := h.ticks
  n_pos := h.n_pos
  n_le := h.n_le
  timer := by
    rw [SenderD.advance]
    split
    · exact Timer.cancel_sound hu h.timer
    · exact Timer.arm_sound _ (r.timer.cancel unspecified) h.ticks
  wf := r.wf_advance _ _ h.wf
  outstanding_le := by
    have hsum := r.outstanding_advance unspecified p.timeoutTicks hq
    have hle := h.outstanding_le
    omega
  window hrun := (h.window hrun).advance hq _ _

/-- SHUTDOWN empties the buffer of an instance that no longer runs (R290). -/
theorem SenderD.Sound.shutdown {tm : Timer} (htm : tm.Sound p.timeoutTicks) :
    SenderD.Sound p false { r with timer := tm, buffer := [] } :=
  { h with timer := htm, wf := Memory.wf_nil, window := nofun }

end

/-! ### Every step keeps a sound state sound -/

theorem onTimer_keeps_sound {s t : State} {v : TimedVariant} {g : Timer → Timer}
    (hg : 1 ≤ s.params.timeoutTicks → ∀ x : Timer, x.Sound s.params.timeoutTicks → (g x).Sound s.params.timeoutTicks)
    (hs : s.Sound) (h : onTimer v s g = .next t) : t.Sound := by
  obtain ⟨r, -, hr, rfl⟩ | ⟨r, -, hr, rfl⟩ := onTimer_eq_next h
  · have hc := (sound_iff_of_senderC hr).mp hs
    exact (hc.withTimer (hg hc.ticks _ hc.timer)).setRegs
  · have hd := (sound_iff_of_senderD hr).mp hs
    exact (hd.withTimer (hg hd.ticks _ hd.timer)).setRegs

theorem execShutdown_keeps_sound {s : State} (hs : s.Sound) {unspecified : Nat}
    (hu : unspecified ≤ s.params.timeoutTicks) :
    State.Sound { s with running := false, regs := shutdownRegs unspecified s.regs } := by
  cases hr : s.regs with
  | senderC r =>
    have hc := (sound_iff_of_senderC hr).mp hs
    exact (sound_iff_of_senderC rfl).mpr (hc.withTimer (Timer.cancel_sound hu hc.timer))
  | senderD r =>
    have hd := (sound_iff_of_senderD hr).mp hs
    exact (sound_iff_of_senderD rfl).mpr (hd.shutdown (Timer.cancel_sound hu hd.timer))
  | unconfigured | receiverA | receiverB e | receiverC e | receiverD e => trivial
  | senderA r | senderB r => simpa only [State.Sound, hr, shutdownRegs] using hs

/-- A sender that starts to wait stores the DATA frame it transmits, a wait that ends asks nothing of the stored frame, a
receiver asks nothing at all; the timed senders are `SenderC.Sound` and `SenderD.Sound`. -/
theorem Effect.keeps_sound {s t : State} (e : Effect s t) (hs : s.Sound) : t.Sound := by
  cases e with
  | same h | held _ h _ | framingError _ h | result _ h | aRetransmit _ _ _ h | aReply _ _ h | aDeliver _ _ h
  | bRetransmit _ _ _ h | bReply _ _ _ _ h | cReply _ _ h | dReply _ _ h =>
    exact h ▸ hs.of_eq rfl rfl rfl
  | aSend _ data _ _ hl h | bSend _ data _ _ hl h => exact h ▸ fun _ => ⟨data, hl, rfl⟩
  | aDone _ _ _ h | bDone _ _ _ h => exact h ▸ fun hw => nomatch hw
  | bDeliver _ _ _ h | cDeliver _ _ _ h | dDeliver _ _ _ h => exact h ▸ trivial
  | cSend r data hr _ _ hl h =>
    have hc := (sound_iff_of_senderC hr).mp hs
    exact h ▸ .emit (SenderC.Sound.setRegs
      ⟨hc.ticks, Timer.arm_sound _ r.timer hc.ticks, fun _ => ⟨data, hl, rfl⟩⟩) _
  | cDone r hr _ _ h =>
    have hc := (sound_iff_of_senderC hr).mp hs
    exact h ▸ .emit (SenderC.Sound.setRegs
      ⟨hc.ticks, Timer.cancel_sound (unspecifiedRemaining_le _ s.draws) hc.timer, by simp⟩) _
  | cTimeout r hr _ _ _ h =>
    have hc := (sound_iff_of_senderC hr).mp hs
    exact h ▸ (hc.withTimer (Timer.arm_sound _ _ hc.ticks)).setRegs.emit _
  | cTimeoutIdle r hr _ _ _ h =>
    have hc := (sound_iff_of_senderC hr).mp hs
    exact h ▸ (hc.withTimer (Timer.service_sound hc.timer)).setRegs
  | dSend r data hr _ hw hl h =>
    exact h ▸ (((sound_iff_of_senderD hr).mp hs).accept hw hl).setRegs.emit _
  | dAck r q hr _ hq h =>
    cases (acknowledge_eq_advance r q s).symm.trans h
    exact (((sound_iff_of_senderD hr).mp hs).advance ((insideWindow_eq_true r q).mpr hq)
      (unspecifiedRemaining_le _ _)).setRegs.emit _
  | dTimeout r _ hr _ _ _ _ h =>
    have hd := (sound_iff_of_senderD hr).mp hs
    exact h ▸ (hd.withTimer (Timer.arm_sound _ _ hd.ticks)).setRegs.emit _
  | dTimeoutIdle r hr _ _ _ h =>
    have hd := (sound_iff_of_senderD hr).mp hs
    exact h ▸ (hd.withTimer (Timer.service_sound hd.timer)).setRegs
  | shutdown h => exact h ▸ execShutdown_keeps_sound hs (unspecifiedRemaining_le _ _)

/-- The reset values are sound: no sender waits, every timer is idle, the window and the buffer are empty (R310). -/
theorem sound_of_execReset {cfg : Cfg} {s t : State} (h : execReset cfg s = .next t) : t.Sound := by
  obtain ⟨hlegal, rfl⟩ := execReset_eq_next h
  have hidle : Timer.Sound cfg.timeoutTicks ⟨false, false, unspecifiedRemaining cfg.timeoutTicks s.draws⟩ :=
    ⟨by simp, unspecifiedRemaining_le _ _, nofun⟩
  obtain ⟨v, role, mss, n, ticks⟩ := cfg
  cases role with
  | receiver => cases v <;> trivial
  | sender =>
    cases v with
    | a | b => exact nofun
    | c => exact ⟨of_decide_eq_true hlegal, hidle, nofun⟩
    | d =>
      simp only [legalCfg, Bool.and_eq_true, decide_eq_true_eq] at hlegal
      obtain ⟨⟨hticks, hn⟩, hn'⟩ := hlegal
      have hnone : SenderD.outstanding ⟨0, 0, [], ⟨false, false, unspecifiedRemaining ticks s.draws⟩⟩ = 0 :=
        (outstanding_eq_zero _).mpr rfl
      exact ⟨hticks, hn, hn', hidle, Memory.wf_nil, Nat.le_trans (Nat.le_of_eq hnone) (Nat.zero_le n),
        fun _ => SenderD.bufferIsWindow_of_empty rfl hnone⟩

theorem exec_keeps_sound {i : Instr} {s t : State} (hs : s.Sound) (h : exec i s = .next t) : t.Sound := by
  obtain ⟨cfg, rfl⟩ | ⟨v, g, hg, h⟩ | e := exec_effect h
  · exact sound_of_execReset h
  · exact onTimer_keeps_sound (fun hticks x hx => timerFunction_sound hg x hx hticks) hs h
  · exact e.keeps_sound hs

/-- What the next instruction runs in: the ports and the model's own fields have moved on, and nothing else (R276). -/
theorem State.nextInstr_eq_some {s u : State} {i : Instr} (h : s.nextInstr = .ok (some (i, u))) :
    u.params = s.params ∧ u.running = s.running ∧ u.regs = s.regs := by
  unfold State.nextInstr at h
  (repeat' split at h) <;> cases h <;> exact ⟨rfl, rfl, rfl⟩

/-- A step is a wait, or one instruction in a state with the configuration, `running` and registers of `s`. -/
theorem step_eq_next {s t : State} (h : step s = .next t) : t = s ∨ ∃ i u, exec i u = .next t ∧
    u.params = s.params ∧ u.running = s.running ∧ u.regs = s.regs := by
  unfold step at h
  split at h
  · cases h
  · cases h
    exact .inl rfl
  · next i u hnext => exact .inr ⟨i, u, h, State.nextInstr_eq_some hnext⟩

/-- Settles O46: a step is a wait or one instruction, and an instruction is RESET, a timer operation or an `Effect`. -/
theorem stepKeepsSoundState : Obligations.StepKeepsSoundState := by
  intro s t hs h
  obtain rfl | ⟨i, u, hexec, hp, hrun, hregs⟩ := step_eq_next h
  · exact hs
  · exact exec_keeps_sound (hs.of_eq hp hrun hregs) hexec

/-! ### Every handler keeps the timer tracking what is outstanding (R226 (4), R204) -/

/-- The timer is idle when nothing is outstanding, and otherwise exactly one of `armed` and `expired` is 1. -/
structure Timer.Tracks (outstanding : Prop) (t : Timer) : Prop where
  idle : ¬ outstanding → t.armed = false ∧ t.expired = false
  active : outstanding → t.armed = !t.expired

namespace Timer.Tracks
variable {outstanding : Prop}

theorem of_arm (h : outstanding) (k : Nat) (t : Timer) : (t.arm k).Tracks outstanding :=
  ⟨fun hn => absurd h hn, fun _ => rfl⟩

theorem of_idle (h : ¬ outstanding) {t : Timer} (ha : t.armed = false) (he : t.expired = false) :
    t.Tracks outstanding :=
  ⟨fun _ => ⟨ha, he⟩, fun ho => absurd ho h⟩

theorem of_cancel (h : ¬ outstanding) (u : Nat) (t : Timer) : (t.cancel u).Tracks outstanding :=
  .of_idle h (cancel_armed u t) (cancel_expired u t)

theorem service {t : Timer} (h : ¬ outstanding) (ht : t.Tracks outstanding) : t.service.Tracks outstanding :=
  .of_idle h (ht.idle h).1 rfl

/-- TICK leaves an idle timer alone, and an armed one armed or expired (R258). -/
theorem tick {t : Timer} (ht : t.Tracks outstanding) : t.tick.Tracks outstanding := by
  unfold Timer.tick
  split
  · next ha =>
    have ho : outstanding := Classical.byContradiction fun hn => absurd (ha.symm.trans (ht.idle hn).1) nofun
    split
    · exact ⟨fun hn => absurd ho hn, fun _ => rfl⟩
    · exact ⟨fun hn => absurd ho hn, ht.active⟩
  · exact ht

end Timer.Tracks

section
variable {s : State}

theorem tracks_iff_of_senderC {r : SenderC} (hr : s.regs = .senderC r) :
    s.TimerTracksOutstanding ↔ (s.running = true → r.timer.Tracks (r.phase = .waitAck)) := by
  simp only [State.TimerTracksOutstanding, hr]
  refine imp_congr_right fun _ => ⟨fun ⟨hi, ha⟩ => ⟨fun hn => hi ?_, ha⟩, fun ⟨hi, ha⟩ => ⟨fun hp => hi ?_, ha⟩⟩
  · cases hp : r.phase with
    | ready => rfl
    | waitAck => exact absurd hp hn
  · simp [hp]

theorem tracks_iff_of_senderD {r : SenderD} (hr : s.regs = .senderD r) :
    s.TimerTracksOutstanding ↔ (s.running = true → r.timer.Tracks (0 < r.outstanding)) := by
  simp only [State.TimerTracksOutstanding, hr]
  exact imp_congr_right fun _ => ⟨fun ⟨hi, ha⟩ => ⟨fun hn => hi (Nat.eq_zero_of_not_pos hn), ha⟩,
    fun ⟨hi, ha⟩ => ⟨fun hz => hi (Nat.not_lt.mpr (Nat.le_of_eq hz)), ha⟩⟩

theorem State.TimerTracksOutstanding.of_eq {t : State} (h : s.TimerTracksOutstanding) (hrun : t.running = s.running)
    (hregs : t.regs = s.regs) : t.TimerTracksOutstanding := by
  simpa only [State.TimerTracksOutstanding, hrun, hregs] using h

theorem State.TimerTracksOutstanding.emit (h : s.TimerTracksOutstanding) (os : List Output) :
    (s.emit os).TimerTracksOutstanding := h.of_eq rfl rfl

theorem Timer.Tracks.setRegs_senderC {r : SenderC} (h : r.timer.Tracks (r.phase = .waitAck)) :
    (s.setRegs (.senderC r)).TimerTracksOutstanding := (tracks_iff_of_senderC rfl).mpr fun _ => h

theorem Timer.Tracks.setRegs_senderD {r : SenderD} (h : r.timer.Tracks (0 < r.outstanding)) :
    (s.setRegs (.senderD r)).TimerTracksOutstanding := (tracks_iff_of_senderD rfl).mpr fun _ => h

end

theorem outstanding_pos_iff (r : SenderD) : 0 < r.outstanding ↔ r.base ≠ r.nextToSend := by
  rw [Nat.pos_iff_ne_zero, Ne, outstanding_eq_zero]

/-- The first outstanding packet finds the timer idle and arms it; a later one finds it running or expired. -/
theorem Timer.Tracks.accept {r : SenderD} (h : r.timer.Tracks (0 < r.outstanding))
    (hroom : r.outstanding < 2 ^ 32 - 1) (ticks : Nat) (data : Frame) :
    (r.accept ticks data).timer.Tracks (0 < (r.accept ticks data).outstanding) := by
  have hout : 0 < (r.accept ticks data).outstanding := by
    rw [r.outstanding_accept ticks data hroom]
    exact Nat.succ_pos _
  refine ⟨fun hn => absurd hout hn, fun _ => ?_⟩
  simp only [SenderD.accept]
  split
  · rfl
  · next hne => exact h.active ((outstanding_pos_iff r).mpr hne)

/-- An acknowledgment cancels the timer when it leaves nothing outstanding and restarts it otherwise. -/
theorem Timer.Tracks.advance (r : SenderD) (unspecified ticks : Nat) (q : Seq32) :
    (r.advance unspecified ticks q).timer.Tracks (0 < (r.advance unspecified ticks q).outstanding) := by
  rw [outstanding_pos_iff]
  simp only [SenderD.advance]
  split
  · next hall => exact .of_cancel (not_not_intro hall) _ _
  · next hleft => exact .of_arm hleft _ _

/-- A handler arms the timer when it leaves something outstanding that was not or that goes out again, and cancels it when it
leaves nothing; an instance that stopped is not asked. -/
theorem Effect.keeps_tracking {s t : State} (e : Effect s t) (hs : s.Sound) (ht : s.TimerTracksOutstanding) :
    t.TimerTracksOutstanding := by
  cases e with
  | same h | held _ h _ | framingError _ h | result _ h | aRetransmit _ _ _ h | aReply _ _ h | aDeliver _ _ h
  | bRetransmit _ _ _ h | bReply _ _ _ _ h | cReply _ _ h | dReply _ _ h =>
    exact h ▸ ht.of_eq rfl rfl
  | aSend _ _ _ _ _ h | aDone _ _ _ h | bSend _ _ _ _ _ h | bDone _ _ _ h | bDeliver _ _ _ h | cDeliver _ _ _ h
  | dDeliver _ _ _ h => exact h ▸ fun _ => trivial
  | cSend r _ _ _ _ _ h => exact h ▸ .emit (Timer.Tracks.setRegs_senderC (.of_arm rfl _ r.timer)) _
  | cDone _ _ _ _ h => exact h ▸ .emit (Timer.Tracks.setRegs_senderC (.of_cancel nofun _ _)) _
  | cTimeout r _ _ _ hp h => exact h ▸ .emit (Timer.Tracks.setRegs_senderC (.of_arm hp _ r.timer.service)) _
  | cTimeoutIdle r hr hrun _ hp h =>
    exact h ▸ Timer.Tracks.setRegs_senderC (((tracks_iff_of_senderC hr).mp ht hrun).service (by simp [hp]))
  | dSend r data hr hrun hw _ h =>
    have hroom := ((sound_iff_of_senderD hr).mp hs).room hw
    exact h ▸ .emit (((tracks_iff_of_senderD hr).mp ht hrun).accept hroom _ data).setRegs_senderD _
  | dAck r q _ _ _ h =>
    cases (acknowledge_eq_advance r q s).symm.trans h
    exact (Timer.Tracks.advance r _ _ q).setRegs_senderD.emit _
  | dTimeout r _ _ _ _ hb _ h =>
    exact h ▸ .emit (Timer.Tracks.setRegs_senderD (.of_arm ((outstanding_pos_iff r).mpr hb) _ r.timer.service)) _
  | dTimeoutIdle r hr hrun _ hb h =>
    exact h ▸ Timer.Tracks.setRegs_senderD
      (((tracks_iff_of_senderD hr).mp ht hrun).service (mt (outstanding_pos_iff r).mp (not_not_intro hb)))
  | shutdown h => exact h ▸ nofun

theorem tracks_of_execReset {cfg : Cfg} {s t : State} (h : execReset cfg s = .next t) : t.TimerTracksOutstanding := by
  obtain ⟨-, rfl⟩ := execReset_eq_next h
  obtain ⟨v, role, mss, n, ticks⟩ := cfg
  cases role with
  | receiver => cases v <;> exact fun _ => trivial
  | sender =>
    cases v with
    | a | b => exact fun _ => trivial
    | c => exact fun _ => ⟨fun _ => ⟨rfl, rfl⟩, nofun⟩
    | d => exact fun _ => ⟨fun _ => ⟨rfl, rfl⟩, fun hout => absurd rfl ((outstanding_pos_iff _).mp hout)⟩

theorem tmrTick_keeps_tracking {v : TimedVariant} {s t : State} (ht : s.TimerTracksOutstanding)
    (h : execTmrTick v s = .next t) : t.TimerTracksOutstanding := by
  obtain ⟨r, -, hr, rfl⟩ | ⟨r, -, hr, rfl⟩ := onTimer_eq_next h
  · refine (tracks_iff_of_senderC rfl).mpr fun hrun => ?_
    simp only [State.setRegs_running] at hrun
    simp only [hrun, if_true]
    exact ((tracks_iff_of_senderC hr).mp ht hrun).tick
  · refine (tracks_iff_of_senderD rfl).mpr fun hrun => ?_
    simp only [State.setRegs_running] at hrun
    simp only [hrun, if_true]
    exact ((tracks_iff_of_senderD hr).mp ht hrun).tick

/-- Settles O47: of the timer operations only TICK is a handler; the rest is RESET and `Effect.keeps_tracking`. -/
theorem handlersKeepTimerTracking : Obligations.HandlersKeepTimerTracking := by
  intro i s t hi hs ht h
  obtain ⟨cfg, rfl⟩ | ⟨v, g, hg, -⟩ | e := exec_effect h
  · exact tracks_of_execReset h
  · cases i with
    | tmrTick v => exact tmrTick_keeps_tracking ht h
    | tmrArm | tmrCancel | tmrRestart => cases hi
    | _ => cases hg
  · exact e.keeps_tracking hs ht

end Sys2Proof.Machine
end

section
/-! PROOFS. Sessions of variant D (44_variant_D_go_back_n.md R230): delivery exactly once and in order over a channel that
loses, delays, reorders and detectably changes frames. -/

namespace Sys2Proof.Machine

/-! ### Completions and retransmitted frames -/

@[simp] theorem State.completions_setRegs (s : State) (r : Regs) : (s.setRegs r).completions = s.completions := rfl

@[simp] theorem State.completions_emit (s : State) (os : List Output) :
    (s.emit os).completions = s.completions + (os.filter Output.isDone).length := by
  simp [State.completions]

section
variable (frames : List Frame) {α : Type} (xs : List α) (tag : α → Option Seq32)

theorem filterMap_frame_map_tx : (frames.map Output.tx).filterMap Output.frame = frames := by
  induction frames with
  | nil => rfl
  | cons f fs ih => rw [List.map_cons, List.filterMap_cons_some (f := Output.frame) rfl, ih]

theorem filter_isDone_map_tx : (frames.map Output.tx).filter Output.isDone = [] := by
  induction frames with
  | nil => rfl
  | cons f fs ih => rw [List.map_cons, List.filter_cons_of_neg Bool.false_ne_true, ih]

theorem filterMap_frame_map_done : (xs.map fun x => Output.done (tag x)).filterMap Output.frame = [] := by
  induction xs with
  | nil => rfl
  | cons x xs ih => rw [List.map_cons, List.filterMap_cons_none (f := Output.frame) rfl, ih]

theorem length_filter_isDone_map_done :
    ((xs.map fun x => Output.done (tag x)).filter Output.isDone).length = xs.length := by
  induction xs with
  | nil => rfl
  | cons x xs ih => rw [List.map_cons, List.filter_cons_of_pos rfl, List.length_cons, ih, List.length_cons]

end

theorem Memory.exists_read_of_readAll {m : Memory} {qs : List Seq32} {fs : List Frame} (h : m.readAll qs = .ok fs)
    {f : Frame} (hf : f ∈ fs) : ∃ q, m.read q = some f := by
  have hmem : some f ∈ qs.map m.read := (Memory.readAll_eq_ok _ _ _).mp h ▸ List.mem_map_of_mem hf
  obtain ⟨q, -, hq⟩ := List.mem_map.mp hmem
  exact ⟨q, hq⟩

/-- SD.TIMEOUT answers next: the instance is stopped, only the flag is serviced, or the frames of the window go out again
(R224). -/
theorem exec_sdTimeout_eq_next {s t : State} {r : SenderD} (hr : s.regs = .senderD r) (h : exec .sdTimeout s = .next t) :
    t = s ∨ t = s.setRegs (.senderD { r with timer := r.timer.service }) ∨
      ∃ frames, r.buffer.readAll (seqRun r.base r.outstanding) = .ok frames ∧
        t = (s.setRegs (.senderD { r with timer := r.timer.service.arm s.params.timeoutTicks })).emit
          (frames.map .tx) := by
  simp only [exec, execSdTimeout, hr] at h
  obtain ⟨_, rfl⟩ | ⟨_, _, h⟩ := timeoutEvent_eq_next h
  · exact .inl rfl
  · split at h
    · cases h
      exact .inr (.inl rfl)
    · split at h
      · cases h
      · next frames hread =>
        cases h
        exact .inr (.inr ⟨frames, hread, rfl⟩)

/-! ### What the two sides have counted (R230) -/

/-- The ACK of a payload that was delivered, or of sequence 2^32 - 1, which a receiver that has delivered nothing gives
(R228). -/
def IsDeliveryAckD (delivered : List Frame) (f : Frame) : Prop :=
  ∃ q : Seq32, (q.toNat < delivered.length ∨ q.toNat = 2 ^ 32 - 1) ∧ f = Codec.control .d kindAck q.toNat

theorem IsDeliveryAckD.append {delivered : List Frame} {f : Frame} (h : IsDeliveryAckD delivered f) (more : List Frame) :
    IsDeliveryAckD (delivered ++ more) f := by
  obtain ⟨q, hq, hf⟩ := h
  exact ⟨q, hq.imp_left fun hlt => List.length_append ▸ Nat.lt_add_right _ hlt, hf⟩

/-- Where a session of variant D stands before the sequences have come round: `next_to_send` counts the sent payloads, `base`
the completed SENDs, the receiver's expectation the delivered payloads; the buffer, which while the sender runs covers the
window, holds DATA that was sent, and every frame in flight is DATA that was sent or an ACK that was earned. -/
structure CountingD (running : Bool) (r : SenderD) (e : Seq32) (completions : Nat)
    (sent delivered toReceiver toSender : List Frame) : Prop where
  wf : r.buffer.wf
  nextToSend : r.nextToSend.toNat = sent.length
  completed : r.base.toNat = completions
  earned : r.base.toNat ≤ delivered.length
  expects : e.toNat = delivered.length
  inOrder : delivered <+: sent
  stored : ∀ q f, r.buffer.read q = some f → IsSentData .d sent f
  pending : running = true → ∀ q, r.insideWindow q = true → r.buffer.read q ≠ none
  data : ∀ f ∈ toReceiver, IsSentData .d sent f
  acks : ∀ f ∈ toSender, IsDeliveryAckD delivered f

namespace CountingD
variable {running : Bool} {r : SenderD} {e : Seq32} {completions : Nat} {sent delivered toReceiver toSender : List Frame}
  (h : CountingD running r e completions sent delivered toReceiver toSender)
include h

theorem base_le_nextToSend : r.base.toNat ≤ r.nextToSend.toNat :=
  h.nextToSend ▸ Nat.le_trans h.earned h.inOrder.length_le

/-- Before the sequences have come round, the window is an interval of numbers. -/
theorem outstanding_eq : r.outstanding = r.nextToSend.toNat - r.base.toNat :=
  BitVec.toNat_sub_of_le (BitVec.le_def.mpr h.base_le_nextToSend)

/-- A running sender with an empty buffer has nothing outstanding, so every sent payload has been delivered. -/
theorem delivered_eq_sent (hrun : running = true) (hempty : r.buffer = []) : delivered = sent := by
  have hbase : r.base = r.nextToSend := Classical.byContradiction fun hne => by
    have hin : r.insideWindow r.base = true := by
      rw [insideWindow_eq_true, (sub_zero_iff _ _).mpr rfl]
      exact (outstanding_pos_iff r).mpr hne
    exact h.pending hrun r.base hin (by rw [hempty]; rfl)
  exact h.inOrder.eq_of_length_le (by rw [← h.nextToSend, ← hbase]; exact h.earned)

/-- The timer has no part in what is counted. -/
theorem withTimer (tm : Timer) :
    CountingD running { r with timer := tm } e completions sent delivered toReceiver toSender :=
  { h with }

theorem eraseData (k : Nat) : CountingD running r e completions sent delivered (toReceiver.eraseIdx k) toSender :=
  { h with data := fun f hf => h.data f (List.mem_of_mem_eraseIdx hf) }

theorem eraseAck (k : Nat) : CountingD running r e completions sent delivered toReceiver (toSender.eraseIdx k) :=
  { h with acks := fun f hf => h.acks f (List.mem_of_mem_eraseIdx hf) }

/-- SHUTDOWN empties the buffer of a sender that no longer runs (R290). -/
theorem shutdown (tm : Timer) :
    CountingD false { r with timer := tm, buffer := [] } e completions sent delivered toReceiver toSender :=
  { h with wf := Memory.wf_nil, stored := nofun, pending := nofun }

/-- An accepted SEND is DATA of `next_to_send`, which is its payload's place among the sent ones. -/
theorem accept (ticks : Nat) (data : Frame) (hlt : (sent ++ [data]).length < 2 ^ 32) :
    CountingD running (r.accept ticks data) e completions (sent ++ [data]) delivered
      (toReceiver ++ [Codec.encode .d kindData r.nextToSend.toNat data]) toSender := by
  have hlen : (sent ++ [data]).length = r.nextToSend.toNat + 1 := by rw [List.length_append, h.nextToSend]; rfl
  have hroom : r.outstanding < 2 ^ 32 - 1 := by
    rw [h.outstanding_eq]
    omega
  have hnew : IsSentData .d (sent ++ [data]) (Codec.encode .d kindData r.nextToSend.toNat data) :=
    ⟨_, data, by rw [h.nextToSend, List.getElem?_concat_length], rfl⟩
  exact {
    wf := r.wf_accept ticks data h.wf
    nextToSend := hlen ▸ BitVec.toNat_add_of_lt (hlen ▸ hlt)
    completed := h.completed
    earned := h.earned
    expects := h.expects
    inOrder := h.inOrder.trans (List.prefix_append sent [data])
    stored := fun q f hf => by
      rw [r.read_accept ticks data h.wf] at hf
      split at hf
      · exact Option.some.inj hf ▸ hnew
      · exact (h.stored q f hf).append [data]
    pending := fun hrun q hq => by
      rw [r.read_accept ticks data h.wf]
      split
      · exact nofun
      · next hne => exact h.pending hrun q (((r.insideWindow_accept ticks data hroom q).mp hq).resolve_left hne)
    data := List.forall_mem_append.mpr
      ⟨fun f hf => (h.data f hf).append [data], List.forall_mem_singleton.mpr hnew⟩
    acks := h.acks }

theorem retransmit {qs : List Seq32} {frames : List Frame} (hread : r.buffer.readAll qs = .ok frames) :
    CountingD running r e completions sent delivered (toReceiver ++ frames) toSender :=
  { h with data := List.forall_mem_append.mpr ⟨h.data, fun f hf =>
      have ⟨q, hq⟩ := Memory.exists_read_of_readAll hread hf
      h.stored q f hq⟩ }

/-- An arrival that is not the expected DATA is answered by the ACK of the last one delivered, 2^32 - 1 if there is none. -/
theorem reply : CountingD running r e completions sent delivered toReceiver
    (toSender ++ [Codec.control .d kindAck (e - 1).toNat]) := by
  have hprev : (e - 1).toNat < delivered.length ∨ (e - 1).toNat = 2 ^ 32 - 1 := by
    rw [toNat_seq32_sub_one, ← h.expects]
    omega
  exact { h with
    acks := List.forall_mem_append.mpr ⟨h.acks, List.forall_mem_singleton.mpr ⟨_, hprev, rfl⟩⟩ }

/-- DATA of the expected sequence carries the next payload that was sent. -/
theorem deliver {p : Frame} (hp : sent[e.toNat]? = some p) :
    CountingD running r (e + 1) completions sent (delivered ++ [p]) toReceiver
      (toSender ++ [Codec.control .d kindAck e.toNat]) := by
  rw [h.expects] at hp
  obtain ⟨hlt, -⟩ := List.getElem?_eq_some_iff.mp hp
  have hlen : (delivered ++ [p]).length = delivered.length + 1 := List.length_append
  have hnext : (e + 1).toNat = delivered.length + 1 := by
    have hmax := h.nextToSend ▸ r.nextToSend.isLt
    rw [← h.expects, BitVec.toNat_add_of_lt (by rw [h.expects]; exact Nat.lt_of_le_of_lt hlt hmax)]
    rfl
  exact { h with
    earned := hlen ▸ Nat.le_succ_of_le h.earned
    expects := hlen ▸ hnext
    inOrder := concat_prefix_of_getElem? h.inOrder hp
    acks := List.forall_mem_append.mpr ⟨fun f hf => (h.acks f hf).append _,
      List.forall_mem_singleton.mpr ⟨_, .inl (by rw [hlen, h.expects]; exact Nat.lt_succ_self _), rfl⟩⟩ }

/-- An ACK inside the window was earned by a delivery: `next_to_send`, and so the window, stays below 2^32 - 1. It completes
the SENDs of `base .. q`. -/
theorem advance {q : Seq32} (hq : r.insideWindow q = true)
    (hack : q.toNat < delivered.length ∨ q.toNat = 2 ^ 32 - 1) (unspecified ticks : Nat) :
    CountingD running (r.advance unspecified ticks q) e (completions + ((q - r.base).toNat + 1)) sent delivered toReceiver
      toSender := by
  have hbase := h.base_le_nextToSend
  have hin : r.base.toNat ≤ q.toNat ∧ q.toNat < r.nextToSend.toNat := by
    rw [insideWindow_eq_true] at hq
    bv_omega
  have hmax := r.nextToSend.isLt
  have hdist : (q - r.base).toNat = q.toNat - r.base.toNat := BitVec.toNat_sub_of_le (BitVec.le_def.mpr hin.1)
  have hnext : (q + 1).toNat = q.toNat + 1 := BitVec.toNat_add_of_lt (Nat.lt_of_le_of_lt hin.2 hmax)
  have hearned : q.toNat < delivered.length := hack.resolve_right (by omega)
  exact { h with
    wf := r.wf_advance unspecified ticks h.wf
    completed := by
      rw [← h.completed, hdist]
      exact hnext.trans (by omega)
    earned := Nat.le_trans (Nat.le_of_eq hnext) hearned
    stored := fun x f hf => by
      rw [r.read_advance] at hf
      split at hf
      · cases hf
      · exact h.stored x f hf
    pending := fun hrun x hx => by
      obtain ⟨hafter, hwin⟩ := (r.insideWindow_advance unspecified ticks hq x).mp hx
      rw [r.read_advance, if_neg (Nat.not_le.mpr hafter)]
      exact h.pending hrun x hwin }

end CountingD

/-! ### Every action keeps the count -/

/-- The invariant of R230, while the sequences have not come round (R335). -/
def Session.CountsD (w : Session) : Prop :=
  w.sent.length < 2 ^ 32 → ∃ r e, w.sender.regs = .senderD r ∧ w.receiver.regs = .receiverD e ∧
    CountingD w.sender.running r e w.sender.completions w.sent w.receiver.delivered w.toReceiver w.toSender

theorem countsD_fresh (p : Params) : (Session.fresh .d p).CountsD := fun _ =>
  ⟨_, _, rfl, rfl, {
    wf := Memory.wf_nil
    nextToSend := rfl
    completed := rfl
    earned := Nat.le_refl 0
    expects := rfl
    inOrder := List.prefix_refl _
    stored := nofun
    pending := fun _ q hq => absurd ((insideWindow_eq_true _ q).mp hq) (Nat.not_lt_zero _)
    data := nofun
    acks := nofun }⟩

section
variable {w w' : Session}

/-- A SEND that is discarded or held counts nothing; one that is accepted transmits DATA of the next place. -/
theorem Session.CountsD.present {data : Frame} (hw : w.CountsD) (h : w.present data = some w') : w'.CountsD := by
  obtain ⟨i, t, hi, ht, rfl⟩ := Session.present_eq_some h
  intro hlt
  have hsent : w.sent.length < 2 ^ 32 := by
    refine Nat.lt_of_le_of_lt ?_ hlt
    dsimp only
    split <;> simp
  obtain ⟨r, e, hs, hr, hc⟩ := hw hsent
  obtain rfl : i = .sdSend data := by
    rw [Regs.sendInstr, hs] at hi
    exact (Option.some.inj hi).symm
  rw [exec_sdSend hs] at ht
  rw [canAccept_senderD hs] at hlt ⊢
  obtain ⟨hstop, rfl⟩ | ⟨_, hfull, rfl⟩ | ⟨hrun, hopen, _, ht⟩ := sendEvent_eq_next ht
  · exact ⟨r, e, hs, hr, by simpa [hstop] using hc⟩
  · exact ⟨r, e, hs, hr, by simpa [hfull, State.completions] using hc⟩
  · cases ht
    simp only [hrun, hopen, Bool.and_self, if_true] at hlt ⊢
    refine ⟨_, e, rfl, hr, ?_⟩
    simpa [hrun, State.acceptD, Output.frame, Output.isDone] using hc.accept w.sender.params.timeoutTicks data hlt

/-- A frame to the receiver is DATA that was sent: of the expected sequence it is delivered, any other is answered by the
last ACK. -/
theorem Session.CountsD.deliverToReceiver {k : Nat} {changes : List (Nat × Byte)} (hw : w.CountsD)
    (hdet : (Action.deliverToReceiver k changes).DetectedIn .d w)
    (h : w.act (.deliverToReceiver k changes) = some w') : w'.CountsD := by
  obtain ⟨f, t, hf, ht, rfl⟩ := Session.act_deliverToReceiver_eq_some h
  intro hlt
  obtain ⟨r, e, hs, hr, hc⟩ := hw hlt
  obtain ⟨q, p, hp, rfl⟩ := hc.data f (List.mem_of_getElem? hf)
  have hq : q < 2 ^ 32 := Nat.lt_trans (List.getElem?_eq_some_iff.mp hp).1 hlt
  obtain ⟨d, hd, hcase⟩ := decode_arriving (v := .d) (decide_eq_true hq) (hdet _ hf)
  replace hc := hc.eraseData k
  have hreply := hc.reply
  have hid : w.receiver.regs.identity = some (.receiver, .d) := by rw [hr]; rfl
  obtain rfl | hrec := stopped_or_receives_of_arrival hid hd ht
  · exact ⟨r, e, hs, hr, by simpa using hc⟩
  · obtain hbad | rfl := hcase
    · cases (arrival_receiverD_invalid hr hrec hbad).symm.trans ht
      exact ⟨r, e, hs, hr, by simpa [List.filterMap, Output.payload, Output.frame] using hreply⟩
    · by_cases hexp : q = e.toNat
      · subst hexp
        cases (arrival_receiverD_data rfl hr hrec rfl rfl).symm.trans ht
        exact ⟨r, e + 1, hs, rfl, by simpa [List.filterMap, Output.payload, Output.frame] using hc.deliver hp⟩
      · cases (arrival_receiverD_other hr hrec rfl rfl (by simpa using hexp)).symm.trans ht
        exact ⟨r, e, hs, hr, by simpa [List.filterMap, Output.payload, Output.frame] using hreply⟩

/-- A frame to the sender is an ACK: one inside the window completes the SENDs up to its own, and nothing else moves the
sender. -/
theorem Session.CountsD.deliverToSender {k : Nat} {changes : List (Nat × Byte)} (hw : w.CountsD)
    (hdet : (Action.deliverToSender k changes).DetectedIn .d w)
    (h : w.act (.deliverToSender k changes) = some w') : w'.CountsD := by
  obtain ⟨f, t, hf, ht, rfl⟩ := Session.act_deliverToSender_eq_some h
  intro hlt
  obtain ⟨r, e, hs, hr, hc⟩ := hw hlt
  obtain ⟨q, hq, rfl⟩ := hc.acks f (List.mem_of_getElem? hf)
  obtain ⟨d, hd, hcase⟩ := decode_arriving (v := .d) (decide_eq_true q.isLt) (hdet _ hf)
  replace hc := hc.eraseAck k
  have hid : w.sender.regs.identity = some (.sender, .d) := by rw [hs]; rfl
  obtain rfl | hrec := stopped_or_receives_of_arrival hid hd ht
  · exact ⟨r, e, hs, hr, by simpa using hc⟩
  · obtain hbad | rfl := hcase
    · cases (arrival_senderD_not_ack hs hrec (.inl hbad)).symm.trans ht
      exact ⟨r, e, hs, hr, by simpa using hc⟩
    · cases hin : r.insideWindow q with
      | false =>
        cases (arrival_senderD_outside hs hrec rfl hin).symm.trans ht
        exact ⟨r, e, hs, hr, by simpa using hc⟩
      | true =>
        cases ((arrival_senderD_ack rfl hs hrec rfl rfl hin).trans (acknowledge_eq_advance r q _)).symm.trans ht
        refine ⟨_, e, rfl, hr, ?_⟩
        rw [transmitted_setRegs_emit, filterMap_frame_map_done, List.append_nil, State.completions_emit,
          State.completions_setRegs, length_filter_isDone_map_done, List.length_range]
        exact hc.advance hin hq _ w.sender.params.timeoutTicks

/-- A frame that the channel loses was counted by nobody (R300). -/
theorem Session.CountsD.drop {k : Nat} (hw : w.CountsD)
    (h : w.act (.dropToReceiver k) = some w' ∨ w.act (.dropToSender k) = some w') : w'.CountsD := by
  simp only [Session.act, Option.ite_none_right_eq_some, Option.some.injEq] at h
  obtain ⟨_, rfl⟩ | ⟨_, rfl⟩ := h
  · intro hlt
    obtain ⟨r, e, hs, hr, hc⟩ := hw hlt
    exact ⟨r, e, hs, hr, hc.eraseData k⟩
  · intro hlt
    obtain ⟨r, e, hs, hr, hc⟩ := hw hlt
    exact ⟨r, e, hs, hr, hc.eraseAck k⟩

/-- TICK moves only the timer. -/
theorem Session.CountsD.tick (hw : w.CountsD) (h : w.act .tick = some w') : w'.CountsD := by
  obtain ⟨v, t, ht, rfl⟩ := Session.act_tick_eq_some h
  intro hlt
  obtain ⟨r, e, hs, hr, hc⟩ := hw hlt
  obtain ⟨r', -, hs', rfl⟩ | ⟨r', -, hs', rfl⟩ := onTimer_eq_next ht
  · cases hs.symm.trans hs'
  · cases hs.symm.trans hs'
    exact ⟨_, e, rfl, hr, by simpa using hc.withTimer _⟩

/-- A sender that times out transmits frames of its buffer again, or nothing. -/
theorem Session.CountsD.timeout (hw : w.CountsD) (h : w.act .timeout = some w') : w'.CountsD := by
  obtain ⟨i, t, hi, ht, rfl⟩ := Session.act_timeout_eq_some h
  intro hlt
  obtain ⟨r, e, hs, hr, hc⟩ := hw hlt
  obtain rfl : i = .sdTimeout := by
    rw [Regs.timeoutInstr, hs] at hi
    exact (Option.some.inj hi).symm
  obtain rfl | rfl | ⟨frames, hread, rfl⟩ := exec_sdTimeout_eq_next hs ht
  · exact ⟨r, e, hs, hr, by simpa using hc⟩
  · exact ⟨_, e, rfl, hr, by simpa using hc.withTimer _⟩
  · refine ⟨_, e, rfl, hr, ?_⟩
    rw [transmitted_setRegs_emit, filterMap_frame_map_tx, State.completions_emit, State.completions_setRegs,
      filter_isDone_map_tx]
    exact (hc.retransmit hread).withTimer _

/-- SHUTDOWN writes only the sender's timer and buffer (R290). -/
theorem Session.CountsD.shutdown {side : Role} (hw : w.CountsD) (h : w.act (.shutdown side) = some w') :
    w'.CountsD := by
  cases side with
  | sender =>
    obtain ⟨u, rfl⟩ := Session.act_shutdown_sender_eq_some h
    intro hlt
    obtain ⟨r, e, hs, hr, hc⟩ := hw hlt
    exact ⟨_, e, congrArg (shutdownRegs u) hs, hr, hc.shutdown _⟩
  | receiver =>
    obtain ⟨u, rfl⟩ := Session.act_shutdown_receiver_eq_some h
    intro hlt
    obtain ⟨r, e, hs, hr, hc⟩ := hw hlt
    exact ⟨r, e, hs, congrArg (shutdownRegs u) hr, hc⟩

theorem Session.CountsD.act {a : Action} (hw : w.CountsD) (allowed : a.isReset = false ∧ a.DetectedIn .d w)
    (h : w.act a = some w') : w'.CountsD := by
  obtain ⟨hreset, hdet⟩ := allowed
  cases a with
  | send data => exact hw.present h
  | resume =>
    obtain ⟨data, rest, h⟩ := Session.act_resume_eq_some h
    have hheld : Session.CountsD { w with sender := { w.sender with held := rest } } := hw
    exact hheld.present h
  | tick => exact hw.tick h
  | timeout => exact hw.timeout h
  | deliverToReceiver k changes => exact hw.deliverToReceiver hdet h
  | deliverToSender k changes => exact hw.deliverToSender hdet h
  | dropToReceiver k => exact hw.drop (.inl h)
  | dropToSender k => exact hw.drop (.inr h)
  | reset side cfg => cases hreset
  | shutdown side => exact hw.shutdown h

end

/-- Settles O57: the count holds right after RESET of both sides and is kept by every allowed action. -/
theorem variantDDeliversExactlyOnce : Obligations.VariantDDeliversExactlyOnce := by
  intro p w _ _ h hlt
  obtain ⟨r, e, hs, _, hc⟩ := h.invariant Session.CountsD.act (countsD_fresh p) hlt
  refine ⟨hc.inOrder, hc.completed ▸ hc.earned, fun hrun hpending => hc.delivered_eq_sent hrun ?_⟩
  rwa [hs, sendPending_senderD_eq_false] at hpending

end Sys2Proof.Machine
end

section
/-! PROOFS. The retransmission timer (45_retransmission_timer.md): the operations at a sender of variant C or D, the one-shot
countdown, its deadline form, and the step that serves a TIMEOUT or a held SEND. -/

namespace Sys2Proof.Machine

/-! ### TICK on the timer's registers (R258) -/

namespace Timer
variable {t : Timer}

theorem tick_of_idle (ha : t.armed = false) : t.tick = t := by
  simp [tick, ha]

theorem tick_of_last (ha : t.armed = true) (h : t.remaining ≤ 1) :
    t.tick = { armed := false, expired := true, remaining := 0 } := by
  simp [tick, ha, Nat.sub_eq_zero_of_le h]

theorem tick_of_counting (ha : t.armed = true) (h : 1 < t.remaining) :
    t.tick = { t with remaining := t.remaining - 1 } := by
  simp [tick, ha, Nat.sub_ne_zero_of_lt h]

theorem cancel_of_idle (u : Nat) (ha : t.armed = false) (he : t.expired = false) : t.cancel u = t := by
  simp [cancel, ha, he]

end Timer

/-! ### The one-shot countdown (R250) -/

section
variable {ticks k : Nat} (t : Timer)

theorem Timer.repeat_tick_arm_of_lt (hk : k < ticks) :
    Nat.repeat Timer.tick k (t.arm ticks) = { armed := true, expired := false, remaining := ticks - k } := by
  induction k with
  | zero => rfl
  | succ k ih =>
    have hleft : 1 < ticks - k := by omega
    rw [Nat.repeat, ih (by omega), Timer.tick_of_counting rfl hleft, Nat.sub_sub]

theorem Timer.repeat_tick_arm_of_le (hticks : 1 ≤ ticks) (hk : ticks ≤ k) :
    Nat.repeat Timer.tick k (t.arm ticks) = { armed := false, expired := true, remaining := 0 } := by
  induction hk with
  | refl =>
    obtain ⟨j, rfl⟩ := Nat.exists_eq_add_of_le' hticks
    have hlast : j + 1 - j ≤ 1 := by omega
    rw [Nat.repeat, Timer.repeat_tick_arm_of_lt t j.lt_succ_self, Timer.tick_of_last rfl hlast]
  | step _ ih => rw [Nat.repeat, ih, Timer.tick_of_idle rfl]

end

/-- Settles O39: the countdown before its last tick, and from it on. -/
theorem timerExpiresOnceAfterTimeoutTicks : Obligations.TimerExpiresOnceAfterTimeoutTicks := by
  intro ticks t hticks
  refine ⟨fun k hk => ?_, fun k hk => Timer.repeat_tick_arm_of_le t hticks hk⟩
  rw [Timer.repeat_tick_arm_of_lt t hk]
  exact ⟨rfl, rfl, rfl⟩

/-! ### The deadline form (R264) -/

theorem DeadlineTimer.run_service_of_expired (ticks : Nat) {d : DeadlineTimer} (h : d.expired = true) :
    d.run ticks .service = { d with armed := false } := if_pos h

theorem DeadlineTimer.run_service_of_not_expired (ticks : Nat) {d : DeadlineTimer} (h : d.expired = false) :
    d.run ticks .service = d := if_neg (Bool.eq_false_iff.mp h)

/-- Countdown and deadline form in the same one of the timer's three states: idle, counting with the deadline `remaining`
ticks ahead, or expired and not yet serviced. -/
inductive Timer.Matches (t : Timer) (d : DeadlineTimer) : Prop where
  | idle (ha : t.armed = false) (he : t.expired = false) (hd : d.armed = false)
  | counting (ha : t.armed = true) (he : t.expired = false) (hd : d.armed = true) (hpos : 0 < t.remaining)
      (hdeadline : d.deadline = d.now + t.remaining)
  | expired (ha : t.armed = false) (he : t.expired = true) (hd : d.armed = true) (hpast : d.deadline ≤ d.now)

namespace Timer.Matches
variable {t : Timer} {d : DeadlineTimer}

theorem armed_eq (h : t.Matches d) : t.armed = d.counting := by
  cases h with
  | idle ha _ hd => simp [DeadlineTimer.counting, ha, hd]
  | counting ha _ hd hpos hdeadline => simp [DeadlineTimer.counting, ha, hd, hdeadline, hpos]
  | expired ha _ hd hpast => simp [DeadlineTimer.counting, ha, hd, hpast]

theorem expired_eq (h : t.Matches d) : t.expired = d.expired := by
  cases h with
  | idle _ he hd => simp [DeadlineTimer.expired, he, hd]
  | counting _ he hd hpos hdeadline =>
    have hahead : ¬ d.deadline ≤ d.now := by omega
    simp [DeadlineTimer.expired, he, hahead]
  | expired _ he hd hpast => simp [DeadlineTimer.expired, he, hd, hpast]

/-- An arming forgets the older state of both forms (R252). -/
theorem arm {ticks : Nat} (hticks : 1 ≤ ticks) (t : Timer) (d : DeadlineTimer) :
    (t.arm ticks).Matches (d.run ticks .arm) :=
  .counting rfl rfl rfl hticks rfl

theorem cancel (unspecified ticks : Nat) (t : Timer) (d : DeadlineTimer) :
    (t.cancel unspecified).Matches (d.run ticks .cancel) :=
  .idle (cancel_armed unspecified t) (cancel_expired unspecified t) rfl

theorem tick (ticks : Nat) (h : t.Matches d) : t.tick.Matches (d.run ticks .tick) := by
  cases h with
  | idle ha he hd =>
    rw [tick_of_idle ha]
    exact .idle ha he hd
  | counting ha he hd hpos hdeadline =>
    obtain hmore | hlast := Nat.lt_or_ge 1 t.remaining
    · rw [tick_of_counting ha hmore]
      exact .counting ha he hd (Nat.sub_pos_of_lt hmore) (by simp only [DeadlineTimer.run]; omega)
    · rw [tick_of_last ha hlast]
      exact .expired rfl rfl hd (by simp only [DeadlineTimer.run]; omega)
  | expired ha he hd hpast =>
    rw [tick_of_idle ha]
    exact .expired ha he hd (Nat.le_succ_of_le hpast)

/-- Servicing clears a pending expiry, in the deadline form by disarming; otherwise nothing is to clear (R260). -/
theorem service (ticks : Nat) (h : t.Matches d) : t.service.Matches (d.run ticks .service) := by
  have hflag := h.expired_eq
  cases h with
  | idle ha he hd =>
    rw [DeadlineTimer.run_service_of_not_expired ticks (hflag.symm.trans he)]
    exact .idle ha rfl hd
  | counting ha he hd hpos hdeadline =>
    rw [DeadlineTimer.run_service_of_not_expired ticks (hflag.symm.trans he)]
    exact .counting ha rfl hd hpos hdeadline
  | expired ha he _ _ =>
    rw [DeadlineTimer.run_service_of_expired ticks (hflag.symm.trans he)]
    exact .idle ha rfl rfl

theorem run {ticks : Nat} (hticks : 1 ≤ ticks) (unspecified : Nat) (op : TimerOp) (h : t.Matches d) :
    (t.run unspecified ticks op).Matches (d.run ticks op) := by
  cases op with
  | arm => exact arm hticks t d
  | cancel => exact cancel unspecified ticks t d
  | restart => exact arm hticks (t.cancel unspecified) d
  | tick => exact h.tick ticks
  | service => exact h.service ticks

end Timer.Matches

/-- Settles O40: both forms start idle, and every operation keeps them in the same state. -/
theorem deadlineTimerAgreesWithCountdown : Obligations.DeadlineTimerAgreesWithCountdown := by
  intro ticks ops left now hticks
  have h := List.foldl_rel (l := ops) (r := Timer.Matches) (a := ⟨false, false, left⟩) (b := ⟨false, 0, now⟩)
    (.idle rfl rfl rfl) fun o _ t d ht => ht.run hticks o.2 o.1
  exact ⟨h.armed_eq, h.expired_eq⟩

/-! ### The step of an internal source (R260, R276, R296) -/

section
variable {s : State} {i : Instr}

theorem step_of_source_timeout (hs : s.source = some .timeout) (hi : s.regs.timeoutInstr = some i) :
    step s = exec i s.taken := by
  simp only [step, State.nextInstr, hs, hi]

theorem step_of_source_held {data : Frame} {rest : List Frame} (hs : s.source = some .held)
    (hheld : s.held = data :: rest) (hi : s.regs.sendInstr data = some i) :
    step s = exec i { s.taken with held := rest } := by
  simp only [step, State.nextInstr, hs, hheld, hi]

theorem step_of_source_none (hs : s.source = none) : step s = .next s := by
  simp only [step, State.nextInstr, hs]

theorem source_eq_none (h : ∀ src, s.available src = false) : s.source = none := by
  have hdefault : s.defaultSource = none := by simp [State.defaultSource, h]
  unfold State.source
  split
  · rw [h, hdefault]
    rfl
  · exact hdefault

end

/-- Settles O15: the step of each internal source, and of none. -/
theorem stepServesInternalSourcesOrWaits : Obligations.StepServesInternalSourcesOrWaits := fun _ =>
  ⟨fun hs _ hi => step_of_source_timeout hs hi, fun hs _ _ _ hheld hi => step_of_source_held hs hheld hi,
    fun h => step_of_source_none (source_eq_none h)⟩

/-! ### The operations at the sender that owns the timer (R252 to R258) -/

/-- A sender of variant `v` whose timer is `t`; `put` is its registers with another timer. -/
inductive State.OwnsTimer (s : State) : TimedVariant → Timer → (Timer → Regs) → Prop where
  | c {r : SenderC} (hr : s.regs = .senderC r) : s.OwnsTimer .c r.timer fun x => .senderC { r with timer := x }
  | d {r : SenderD} (hr : s.regs = .senderD r) : s.OwnsTimer .d r.timer fun x => .senderD { r with timer := x }

namespace State.OwnsTimer
variable {s : State} {v : TimedVariant} {t : Timer} {put : Timer → Regs}

theorem onTimer_eq (h : s.OwnsTimer v t put) (g : Timer → Timer) : onTimer v s g = .next (s.setRegs (put (g t))) := by
  cases h with
  | c hr => simp [onTimer, hr]
  | d hr => simp [onTimer, hr]

theorem onTimer_eq_self (h : s.OwnsTimer v t put) {g : Timer → Timer} (hg : g t = t) : onTimer v s g = .next s := by
  have hput : put t = s.regs := by
    cases h with
    | c hr => exact hr.symm
    | d hr => exact hr.symm
  rw [h.onTimer_eq, hg, hput]
  rfl

theorem exec_tmrArm (h : s.OwnsTimer v t put) :
    exec (.tmrArm v) s = .next (s.setRegs (put ⟨true, false, s.params.timeoutTicks⟩)) :=
  h.onTimer_eq _

/-- What TMR.RESTART cancels first is overwritten by the arming (R256). -/
theorem exec_tmrRestart (h : s.OwnsTimer v t put) :
    exec (.tmrRestart v) s = .next (s.setRegs (put ⟨true, false, s.params.timeoutTicks⟩)) :=
  h.onTimer_eq _

theorem exec_tmrCancel (h : s.OwnsTimer v t put) : exec (.tmrCancel v) s =
    .next (s.setRegs (put (t.cancel (unspecifiedRemaining s.params.timeoutTicks s.draws)))) :=
  h.onTimer_eq _

theorem exec_tmrCancel_of_idle (h : s.OwnsTimer v t put) (ha : t.armed = false) (he : t.expired = false) :
    exec (.tmrCancel v) s = .next s :=
  h.onTimer_eq_self (Timer.cancel_of_idle _ ha he)

theorem exists_exec_tmrCancel_eq (h : s.OwnsTimer v t put) (ht : t.remaining ≤ s.params.timeoutTicks) :
    ∃ left ≤ s.params.timeoutTicks, exec (.tmrCancel v) s = .next (s.setRegs (put ⟨false, false, left⟩)) := by
  obtain ⟨left, hle, hcancel⟩ := Timer.exists_cancel_eq (unspecifiedRemaining_le s.params.timeoutTicks s.draws) ht
  exact ⟨left, hle, by rw [h.exec_tmrCancel, hcancel]⟩

theorem exec_tmrTick (h : s.OwnsTimer v t put) (hrun : s.running = true) :
    exec (.tmrTick v) s = .next (s.setRegs (put t.tick)) := by
  rw [← h.onTimer_eq, exec, execTmrTick, hrun, if_pos rfl]

theorem exec_tmrTick_of_idle (h : s.OwnsTimer v t put) (hrun : s.running = true) (ha : t.armed = false) :
    exec (.tmrTick v) s = .next s := by
  rw [exec, execTmrTick, hrun, if_pos rfl]
  exact h.onTimer_eq_self (Timer.tick_of_idle ha)

end State.OwnsTimer

/-- Settles O36: TMR.ARM and TMR.RESTART have one next state, whichever variant the sender is of. -/
theorem timerArmAndRestartLoad : Obligations.TimerArmAndRestartLoad := by
  refine fun s => ⟨?_, ?_⟩
  · rintro r hr _ rfl
    exact ⟨(State.OwnsTimer.c hr).exec_tmrArm, (State.OwnsTimer.c hr).exec_tmrRestart⟩
  · rintro r hr _ rfl
    exact ⟨(State.OwnsTimer.d hr).exec_tmrArm, (State.OwnsTimer.d hr).exec_tmrRestart⟩

/-- Settles O37: `remaining` is left in its range by `Timer.exists_cancel_eq`. -/
theorem timerCancelIdles : Obligations.TimerCancelIdles := fun _ =>
  ⟨fun _ hr hle => ⟨(State.OwnsTimer.c hr).exec_tmrCancel_of_idle, (State.OwnsTimer.c hr).exists_exec_tmrCancel_eq hle⟩,
    fun _ hr hle => ⟨(State.OwnsTimer.d hr).exec_tmrCancel_of_idle, (State.OwnsTimer.d hr).exists_exec_tmrCancel_eq hle⟩⟩

/-- Settles O38: TICK at the sender that owns the timer, by what the countdown has left. -/
theorem timerTickCountsDown : Obligations.TimerTickCountsDown := by
  intro s v t put howner hrun
  have h : s.OwnsTimer v t put := by
    obtain ⟨rfl, r, hr, rfl, rfl⟩ | ⟨rfl, r, hr, rfl, rfl⟩ := howner
    · exact .c hr
    · exact .d hr
  refine ⟨fun ha hmore => ?_, fun ha hlast => ?_, h.exec_tmrTick_of_idle hrun⟩
  · rw [h.exec_tmrTick hrun, Timer.tick_of_counting ha hmore]
    rfl
  · rw [h.exec_tmrTick hrun, Timer.tick_of_last ha (Nat.le_of_eq hlast)]
    rfl

end Sys2Proof.Machine
end

section
/-! PROOFS. Events (60_exceptions.md R276 to R278, R282, R290): the guard that every event of an instance passes, the order in
which events are served, what a stopped instance discards and what is refused. -/

namespace Sys2Proof.Machine

/-! ### The source served next (R276, R278) -/

theorem available_withSchedule (s : State) (schedule : List Source) (src : Source) :
    State.available { s with schedule := schedule } src = s.available src := by
  cases src <;> rfl

theorem available_of_defaultSource {s : State} {src : Source} (h : s.defaultSource = some src) :
    s.available src = true := by
  unfold State.defaultSource at h
  (repeat' split at h) <;> cases h <;> assumption

theorem available_of_source {s : State} {src : Source} (h : s.source = some src) : s.available src = true := by
  unfold State.source at h
  split at h
  · split at h
    · next hsrc => cases h; exact hsrc
    · exact available_of_defaultSource h
  · exact available_of_defaultSource h

/-- Settles O16: the schedule that names the source alone has it served. -/
theorem everyOrderOfEventsAdmitted : Obligations.EveryOrderOfEventsAdmitted :=
  ⟨fun s src h => if_pos ((available_withSchedule s [src] src).trans h), fun _ _ h => available_of_source h⟩

/-! ### Results without a fault -/

/-- The result is a next state or a refusal. -/
def NeverFaults (res : Result) : Prop := ∀ e, res ≠ .fault e

namespace NeverFaults

theorem next (t : State) : NeverFaults (.next t) := nofun

theorem refused (r : Refusal) : NeverFaults (.refused r) := nofun

theorem misaddressed (s : State) : NeverFaults (misaddressed s) := misaddressed_ne_fault s

theorem ite {p : Prop} [Decidable p] {x y : Result} (hx : NeverFaults x) (hy : NeverFaults y) :
    NeverFaults (if p then x else y) := by
  split
  · exact hx
  · exact hy

theorem whileRunning {s : State} {k : Result} (h : NeverFaults k) : NeverFaults (whileRunning s k) :=
  .ite h (.next s)

theorem sendEvent {ready : Bool} {data : Frame} {s : State} {accept : Result} (h : NeverFaults accept) :
    NeverFaults (sendEvent ready data s accept) :=
  .whileRunning (.ite (.ite h (.refused _)) (.next _))

theorem rxEvent {v : Variant} {f : Frame} {s : State} {handle : Result} (h : NeverFaults handle) :
    NeverFaults (rxEvent v f s handle) :=
  .whileRunning (.ite h (.refused _))

theorem timeoutEvent {t : Timer} {s : State} {handle : Result} (h : NeverFaults handle) :
    NeverFaults (timeoutEvent t s handle) :=
  .whileRunning (.ite h (.refused _))

theorem onDecoded {v : Variant} {f : Frame} {s : State} {handle : Decoded → Result} (h : ∀ d, NeverFaults (handle d)) :
    NeverFaults (onDecoded v f s handle) := by
  unfold Machine.onDecoded
  split
  · exact .next _
  · exact h _

theorem onTimer (v : TimedVariant) (s : State) (g : Timer → Timer) : NeverFaults (onTimer v s g) := by
  unfold Machine.onTimer
  split
  · exact .next _
  · exact .next _
  · exact .misaddressed s

end NeverFaults

/-! ### An event passes its guard -/

section
variable {s : State}

/-- RX at its own instance is the guarded event, and its handler does not fault (R276, R281). -/
theorem exec_rxInstr_eq_rxEvent {role : Role} {v : Variant} (hid : s.regs.identity = some (role, v)) (f : Frame) :
    ∃ handle, NeverFaults handle ∧ exec (rxInstr role v f) s = rxEvent v f s handle := by
  cases hr : s.regs <;> rw [hr] at hid <;> cases hid
  case senderA | senderB | senderC =>
    simp only [rxInstr, exec, execSaRx, execSbRx, execScRx, hr]
    refine ⟨_, ?_, rfl⟩
    split
    · exact .next s
    · exact .onDecoded fun d => by (repeat' split) <;> exact .next _
  case senderD | receiverA | receiverB | receiverC | receiverD =>
    simp only [rxInstr, exec, execSdRx, execRaRx, execRbRx, execRcRx, execRdRx, hr]
    exact ⟨_, .onDecoded fun d => by (repeat' split) <;> exact .next _, rfl⟩

/-- SEND at its own instance is the guarded event. -/
theorem exec_sendInstr_eq_sendEvent {data : Frame} {i : Instr} (hi : s.regs.sendInstr data = some i) :
    ∃ t, exec i s = sendEvent s.canAccept data s (.next t) := by
  cases hr : s.regs <;> rw [hr] at hi <;> cases hi <;> rw [State.canAccept, hr]
  case senderA r => exact ⟨_, exec_saSend hr data⟩
  case senderB r => exact ⟨_, exec_sbSend hr data⟩
  case senderC r => exact ⟨_, exec_scSend hr data⟩
  case senderD r => exact ⟨_, exec_sdSend hr data⟩

/-- TIMEOUT at its own instance is the guarded event. -/
theorem exec_timeoutInstr_eq_timeoutEvent {i : Instr} (hi : s.regs.timeoutInstr = some i) :
    ∃ t handle, exec i s = timeoutEvent t s handle := by
  cases hr : s.regs <;> rw [hr] at hi <;> cases hi
  case senderC r => exact ⟨_, _, exec_scTimeout hr⟩
  case senderD r =>
    simp only [exec, execSdTimeout, hr]
    exact ⟨_, _, rfl⟩

end

theorem identity_eq_senderC {r : Regs} : r.identity = some (.sender, .c) ↔ ∃ x, r = .senderC x := by
  cases r <;> simp [Regs.identity]

theorem identity_eq_senderD {r : Regs} : r.identity = some (.sender, .d) ↔ ∃ x, r = .senderD x := by
  cases r <;> simp [Regs.identity]

/-! ### SHUTDOWN and a stopped instance (R290) -/

section
variable {s : State}

theorem exec_shutdown_of_identity {role : Role} {v : Variant} (hid : s.regs.identity = some (role, v)) :
    exec (.shutdown role v) s = .next { s with
      running := false
      regs := shutdownRegs (unspecifiedRemaining s.params.timeoutTicks s.draws) s.regs } :=
  if_pos hid

/-- SHUTDOWN writes the registers of a timed sender only. -/
theorem shutdownRegs_eq_self {r : Regs} {role : Role} {v : Variant} (hid : r.identity = some (role, v))
    (hv : v = .a ∨ v = .b ∨ role = .receiver) (u : Nat) : shutdownRegs u r = r := by
  cases r with
  | senderC r | senderD r => cases hid; obtain hv | hv | hv := hv <;> cases hv
  | _ => rfl

theorem whileRunning_of_stopped (hstop : s.running = false) (k : Result) : whileRunning s k = .next s :=
  if_neg (Bool.eq_false_iff.mp hstop)

theorem exec_tmrTick_of_stopped (hstop : s.running = false) {v : TimedVariant} {t : Timer} {put : Timer → Regs}
    (h : s.OwnsTimer v t put) : exec (.tmrTick v) s = .next s := by
  rw [exec, execTmrTick, if_neg (Bool.eq_false_iff.mp hstop)]
  exact h.onTimer_eq_self rfl

end

/-- Settles O43: SHUTDOWN by its registers; at a stopped instance the guard of an event discards it, and TICK leaves the timer
as it is. -/
theorem shutdownStopsTheInstance : Obligations.ShutdownStopsTheInstance := by
  refine ⟨fun s role v hid => ?_, fun s role v i bs hstop hid hi => ?_⟩
  · rw [exec_shutdown_of_identity hid]
    refine ⟨fun hv => ?_, fun r hr => ?_, fun r hr => ?_⟩
    · rw [shutdownRegs_eq_self hid hv]
    · exact ⟨_, Timer.cancel_armed _ _, Timer.cancel_expired _ _, by rw [hr]; rfl⟩
    · exact ⟨_, Timer.cancel_armed _ _, Timer.cancel_expired _ _, by rw [hr]; rfl⟩
  · obtain rfl | hi | hi | ⟨rfl, ⟨rfl, rfl⟩ | ⟨rfl, rfl⟩⟩ := hi
    · obtain ⟨handle, -, hexec⟩ := exec_rxInstr_eq_rxEvent hid bs
      exact hexec.trans (whileRunning_of_stopped hstop _)
    · obtain ⟨t, hexec⟩ := exec_sendInstr_eq_sendEvent hi
      exact hexec.trans (whileRunning_of_stopped hstop _)
    · obtain ⟨t, handle, hexec⟩ := exec_timeoutInstr_eq_timeoutEvent hi
      exact hexec.trans (whileRunning_of_stopped hstop _)
    · obtain ⟨r, hr⟩ := identity_eq_senderC.mp hid
      exact exec_tmrTick_of_stopped hstop (.c hr)
    · obtain ⟨r, hr⟩ := identity_eq_senderD.mp hid
      exact exec_tmrTick_of_stopped hstop (.d hr)

/-! ### What is outside the contract (R282) -/

section
variable {s : State}

theorem misaddressed_of_identity {here : Role × Variant} (hid : s.regs.identity = some here) :
    misaddressed s = .refused .wrongInstance := by
  rw [misaddressed, hid]

theorem misaddressed_of_unconfigured (hr : s.regs = .unconfigured) : misaddressed s = .refused .beforeReset := by
  rw [misaddressed, hr]
  rfl

theorem onTimer_eq_misaddressed {v : TimedVariant} (hid : s.regs.identity ≠ some (.sender, v.variant))
    (g : Timer → Timer) : onTimer v s g = misaddressed s := by
  unfold onTimer
  split
  · next hr => exact absurd (congrArg Regs.identity hr) hid
  · next hr => exact absurd (congrArg Regs.identity hr) hid
  · rfl

/-- An operation does nothing where the registers are not those of the instance that its key names (R276). -/
theorem exec_eq_misaddressed {i : Instr} {dest : Role × Variant} (ha : addressee i = some dest)
    (hid : s.regs.identity ≠ some dest) : exec i s = misaddressed s := by
  cases i with
  | saSend _ | sbSend _ | scSend _ | sdSend _ | saRx _ | sbRx _ | scRx _ | sdRx _ | raRx _ | rbRx _ | rcRx _ | rdRx _
  | scTimeout | sdTimeout =>
    cases ha
    simp only [exec, execSaSend, execSbSend, execScSend, execSdSend, execSaRx, execSbRx, execScRx, execSdRx, execRaRx,
      execRbRx, execRcRx, execRdRx, execScTimeout, execSdTimeout]
    split
    · next hr => exact absurd (congrArg Regs.identity hr) hid
    · rfl
  | tmrArm v | tmrCancel v | tmrRestart v | tmrTick v =>
    cases ha
    exact onTimer_eq_misaddressed hid _
  | shutdown role v =>
    cases ha
    exact if_neg hid
  | _ => cases ha

theorem rxEvent_of_tooLong (hrun : s.running = true) {v : Variant} {f : Frame}
    (hf : headerSize v + s.params.mss < f.length) (handle : Result) :
    rxEvent v f s handle = .refused .frameTooLong := by
  rw [rxEvent, whileRunning, if_pos hrun, if_neg (Nat.not_le.mpr hf)]

end

section
variable {s : State} (hr : s.regs ≠ .unconfigured) (r : Role) {v : Variant} {kind : Byte} {q : Seq32} {p : Frame}
include hr

theorem exec_encode_of_kind (hk : 2 < kind.toNat) : exec (.encode r v kind q p) s = .refused .kindOutsideDomain := by
  rw [exec, execEncode, if_neg (mt identity_eq_none.mp hr), if_pos (Nat.not_le.mpr hk)]

variable (hk : kind.toNat ≤ 2)
include hk

theorem exec_encode_of_sequence (hq : seqInDomain v q.toNat = false) :
    exec (.encode r v kind q p) s = .refused .sequenceOutsideDomain := by
  rw [exec, execEncode, if_neg (mt identity_eq_none.mp hr), if_neg (not_not_intro hk), if_pos hq]

theorem exec_encode_of_tooLong (hq : seqInDomain v q.toNat = true) (hp : s.params.mss < p.length) :
    exec (.encode r v kind q p) s = .refused .payloadTooLong := by
  rw [exec, execEncode, if_neg (mt identity_eq_none.mp hr), if_neg (not_not_intro hk), if_neg (by simp [hq]),
    if_pos (Nat.not_le.mpr hp)]

end

theorem exec_reset_of_illegal {cfg : Cfg} (h : legalCfg cfg = false) (s : State) :
    exec (.reset cfg) s = .refused .badConfiguration :=
  if_neg (Bool.eq_false_iff.mp h)

/-- Settles O44, clause by clause: the guards of SEND and RX, the key's instance, ENCODE's domain, the operation code,
`legalCfg`. -/
theorem outsideContractIsRefused : Obligations.OutsideContractIsRefused := by
  refine ⟨fun s data i hrun hacc hlong hi => ?_, fun s role v f hrun hid hlong => ?_,
    fun s i dest here ha hid hne => ?_, fun s r v kind q p hconf => ?_, fun r v op rest hop hop' => ?_,
    fun s i dest hr ha => ?_, fun s mss n ticks => ?_⟩
  · obtain ⟨t, hexec⟩ := exec_sendInstr_eq_sendEvent hi
    rw [hexec, hacc]
    exact sendEvent_of_tooLong hrun hlong _
  · obtain ⟨handle, -, hexec⟩ := exec_rxInstr_eq_rxEvent hid f
    exact hexec.trans (rxEvent_of_tooLong hrun hlong _)
  · rw [exec_eq_misaddressed ha fun h => hne (Option.some.inj (h.symm.trans hid)), misaddressed_of_identity hid]
  · exact ⟨exec_encode_of_kind hconf r, exec_encode_of_sequence hconf r, exec_encode_of_tooLong hconf r⟩
  · exact decodeOp_unassigned r v rest hop (Nat.lt_succ_of_le hop')
  · rw [exec_eq_misaddressed ha (by rw [hr]; exact nofun), misaddressed_of_unconfigured hr]
  · refine ⟨exec_reset_of_illegal ?_ s, fun hn => exec_reset_of_illegal ?_ s, exec_reset_of_illegal ?_ s,
      exec_reset_of_illegal ?_ s⟩
    · simp [legalCfg]
    · have hover : decide (n ≤ 2 ^ 32 - 1) = false := decide_eq_false (by omega)
      simp only [legalCfg, hover, Bool.and_false]
    · simp [legalCfg]
    · simp [legalCfg]

end Sys2Proof.Machine
end

section
/-! PROOFS. Errors (60_exceptions.md R270 to R273, R279 to R281): what a frame that meets an error cause does, and the one fault
of the model, a sequence of the window without a frame in the buffer of SD.TIMEOUT. -/

namespace Sys2Proof.Machine

/-! ### A frame that meets an error cause (R270 to R272, R279, R280) -/

/-- The outputs with which an instance may answer a frame of length `n` that meets the cause. -/
inductive CauseAnswer (n : Nat) : Cause → List Output → Prop where
  | silence (c : Cause) : CauseAnswer n c []
  | framing : CauseAnswer n .framing [.framingError n]
  | tx {c : Cause} (hc : c ≠ .framing) (g : Frame) : CauseAnswer n c [.tx g]

/-- `res` is `s` with such an answer appended to the log, and nothing else changed. -/
def State.AnswersCause (s : State) (n : Nat) (c : Cause) (res : Result) : Prop :=
  ∃ os, CauseAnswer n c os ∧ res = .next (s.emit os)

/-- The frame meets one of three causes, in the order of R279. -/
theorem frameCause_eq_some {r : Regs} {role : Role} {v : Variant} {f : Frame} {c : Cause}
    (hid : r.identity = some (role, v)) (h : frameCause r f = some c) :
    (c = .framing ∧ f.length < headerSize v) ∨ ∃ d, Codec.decode v f = .ok d ∧
      (c = .checksum ∧ d.checksumOk = false ∨
        c = .sequence ∧ d.checksumOk = true ∧ sequenceMismatch r d = true) := by
  simp only [frameCause, hid] at h
  obtain hshort | hlong := Nat.lt_or_ge f.length (headerSize v)
  · rw [decode_short v f hshort] at h
    cases h
    exact .inl ⟨rfl, hshort⟩
  · refine .inr ⟨_, decode_long v f hlong, ?_⟩
    rw [decode_long v f hlong] at h
    dsimp only at h
    split at h
    · next hbad => cases h; exact .inl ⟨rfl, hbad⟩
    · next hok =>
      split at h
      · next hmis => cases h; exact .inr ⟨rfl, Bool.of_not_eq_false hok, hmis⟩
      · cases h

section
variable {s : State} {n : Nat} {c : Cause} {res : Result}

theorem State.AnswersCause.of_same (h : res = .next s) : s.AnswersCause n c res :=
  ⟨[], .silence c, by rw [h, State.emit, List.append_nil]⟩

theorem State.AnswersCause.of_framing (h : res = .next (s.emit [.framingError n])) :
    s.AnswersCause n .framing res :=
  ⟨_, .framing, h⟩

theorem State.AnswersCause.of_tx (hc : c ≠ .framing) {g : Frame} (h : res = .next (s.emit [.tx g])) :
    s.AnswersCause n c res :=
  ⟨_, .tx hc g, h⟩

end

/-- DECODE under the layout of variant D reads a 32-bit sequence (R136). -/
theorem State.Receives.exists_seq {s : State} {f : Frame} {d : Decoded} (hf : s.Receives .d f d) :
    ∃ q : Seq32, d.seq = some q.toNat := by
  obtain hshort | hlong := Nat.lt_or_ge f.length (headerSize .d)
  · exact nomatch (decode_short .d f hshort).symm.trans hf.decoded
  · have hd := (decode_long .d f hlong).symm.trans hf.decoded
    cases hd
    refine ⟨BitVec.ofNat 32 (ube (memRead f 1 4)), congrArg some ?_⟩
    rw [BitVec.toNat_ofNat]
    exact (Nat.mod_eq_of_lt (ube_memRead_lt f 1 4)).symm

section
variable {s : State} {role : Role} {v : Variant} (hid : s.regs.identity = some (role, v)) {f : Frame}
include hid

/-- Cause 1: FramingError, or nothing at a sender that waits for no frame. -/
theorem arrival_answers_framing (hrun : s.running = true) (hf : f.length ≤ headerSize v + s.params.mss)
    (hshort : f.length < headerSize v) : s.AnswersCause f.length .framing (arrival f s) := by
  cases hr : s.regs <;> rw [hr] at hid <;> cases hid
  case senderA r =>
    cases hp : r.phase with
    | idle => exact .of_same (arrival_senderA_idle hr hrun hf hp)
    | awaitingResponse => exact .of_framing (arrival_senderA_short hr hrun hf hp hshort)
  case senderB r =>
    cases hp : r.phase with
    | ready => exact .of_same (arrival_senderB_ready hr hrun hf hp)
    | waitAck => exact .of_framing (arrival_senderB_short hr hrun hf hp hshort)
  case senderC r =>
    cases hp : r.phase with
    | ready => exact .of_same (arrival_senderC_ready hr hrun hf hp)
    | waitAck => exact .of_framing (arrival_senderC_short hr hrun hf hp hshort)
  case senderD r => exact .of_framing (arrival_senderD_short hr hrun hf hshort)
  case receiverA => exact .of_framing (arrival_receiverA_short hr hrun hf hshort)
  case receiverB e => exact .of_framing (arrival_receiverB_short hr hrun hf hshort)
  case receiverC e => exact .of_framing (arrival_receiverC_short hr hrun hf hshort)
  case receiverD e => exact .of_framing (arrival_receiverD_short hr hrun hf hshort)

variable {d : Decoded} (hf : s.Receives v f d)
include hf

/-- Cause 2: a retransmission, a NAK, an acknowledgment of the sequence before, or nothing. -/
theorem arrival_answers_checksum (hbad : d.checksumOk = false) :
    s.AnswersCause f.length .checksum (arrival f s) := by
  cases hr : s.regs <;> rw [hr] at hid <;> cases hid
  case senderA r =>
    cases hp : r.phase with
    | idle => exact .of_same (arrival_senderA_idle hr hf.running hf.fits hp)
    | awaitingResponse => exact .of_tx nofun (arrival_senderA_invalid hr hp hf hbad)
  case senderB r =>
    cases hp : r.phase with
    | ready => exact .of_same (arrival_senderB_ready hr hf.running hf.fits hp)
    | waitAck => exact .of_same (arrival_senderB_invalid hr hp hf hbad)
  case senderC r =>
    cases hp : r.phase with
    | ready => exact .of_same (arrival_senderC_ready hr hf.running hf.fits hp)
    | waitAck => exact .of_same (arrival_senderC_other hr hp hf (by simp [hbad]))
  case senderD r => exact .of_same (arrival_senderD_not_ack hr hf (.inl hbad))
  case receiverA => exact .of_tx nofun (arrival_receiverA_invalid hr hf hbad)
  case receiverB e => exact .of_tx nofun (arrival_receiverB_invalid hr hf hbad)
  case receiverC e => exact .of_tx nofun (arrival_receiverC_invalid hr hf hbad)
  case receiverD e => exact .of_tx nofun (arrival_receiverD_invalid hr hf hbad)

/-- Cause 3: variant A has no sequence; a sender waits on, one of variant B transmitting its frame again if the sequence is
neither of its two; a receiver acknowledges the sequence before the one it expects. -/
theorem arrival_answers_sequence (hok : d.checksumOk = true) (hmis : sequenceMismatch s.regs d = true) :
    s.AnswersCause f.length .sequence (arrival f s) := by
  cases hr : s.regs <;> rw [hr] at hid hmis <;> cases hid
  case senderA r => cases hmis
  case senderB r =>
    obtain ⟨-, hne⟩ : (d.kind = kindAck ∨ d.kind = kindNak) ∧ d.seq ≠ some r.currentSequence.toNat := by
      simpa [sequenceMismatch] using hmis
    cases hp : r.phase with
    | ready => exact .of_same (arrival_senderB_ready hr hf.running hf.fits hp)
    | waitAck =>
      by_cases hstale : (d.kind = kindAck ∨ d.kind = kindNak) ∧ d.seq = some (flipBit r.currentSequence).toNat
      · exact .of_same (arrival_senderB_stale hr hp hf hok hstale.1 hstale.2)
      · exact .of_tx nofun (arrival_senderB_other hr hp hf hok hstale fun hack => hne hack.2)
  case senderC r =>
    obtain ⟨-, hne⟩ : d.kind = kindAck ∧ d.seq ≠ some r.currentSequence.toNat := by
      simpa [sequenceMismatch] using hmis
    cases hp : r.phase with
    | ready => exact .of_same (arrival_senderC_ready hr hf.running hf.fits hp)
    | waitAck => exact .of_same (arrival_senderC_other hr hp hf fun hack => hne hack.2.2)
  case senderD r =>
    obtain ⟨q, hq⟩ := hf.exists_seq
    obtain ⟨-, hout⟩ : d.kind = kindAck ∧ r.insideWindow q = false := by simpa [sequenceMismatch, hq] using hmis
    exact .of_same (arrival_senderD_outside hr hf hq hout)
  case receiverA => cases hmis
  case receiverB e =>
    obtain ⟨hk, hne⟩ : d.kind = kindData ∧ d.seq ≠ some e.toNat := by simpa [sequenceMismatch] using hmis
    exact .of_tx nofun (arrival_receiverB_other hr hf hok hk hne)
  case receiverC e =>
    obtain ⟨hk, hne⟩ : d.kind = kindData ∧ d.seq ≠ some e.toNat := by simpa [sequenceMismatch] using hmis
    exact .of_tx nofun (arrival_receiverC_other hr hf hok hk hne)
  case receiverD e =>
    obtain ⟨hk, hne⟩ : d.kind = kindData ∧ d.seq ≠ some e.toNat := by simpa [sequenceMismatch] using hmis
    exact .of_tx nofun (arrival_receiverD_other hr hf hok hk hne)

end

/-- Settles O45: one lemma for each cause that `frameCause_eq_some` leaves; what the answers may be is `CauseAnswer`. -/
theorem errorCausesChangeNoRegister : Obligations.ErrorCausesChangeNoRegister := by
  intro s role v f c hrun hid hfits h
  rw [← arrival_eq_exec_rxInstr f hid]
  obtain ⟨os, hos, hexec⟩ : s.AnswersCause f.length c (arrival f s) := by
    obtain ⟨rfl, hshort⟩ | ⟨d, hd, ⟨rfl, hbad⟩ | ⟨rfl, hok, hmis⟩⟩ := frameCause_eq_some hid h
    · exact arrival_answers_framing hid hrun hfits hshort
    · exact arrival_answers_checksum hid ⟨hrun, hfits, hd⟩ hbad
    · exact arrival_answers_sequence hid ⟨hrun, hfits, hd⟩ hok hmis
  refine ⟨os, hexec, ?_⟩
  cases hos with
  | silence => simp
  | framing => simp
  | tx hc g => simp [hc]

/-! ### The one fault (R63, R224, R281) -/

theorem Memory.read_eq_none_of_readAll_eq_error {m : Memory} {qs : List Seq32} {q : Seq32}
    (h : m.readAll qs = .error q) : q ∈ qs ∧ m.read q = none := by
  induction qs with
  | nil => cases h
  | cons k qs ih =>
    unfold Memory.readAll at h
    split at h
    · next hk => cases h; exact ⟨List.mem_cons_self .., hk⟩
    · split at h
      · next hrest =>
        cases h
        obtain ⟨hmem, hnone⟩ := ih hrest
        exact ⟨List.mem_cons_of_mem _ hmem, hnone⟩
      · cases h

theorem Memory.exists_readAll_eq_error {m : Memory} {qs : List Seq32} {q : Seq32} (hq : q ∈ qs)
    (hnone : m.read q = none) : ∃ e, m.readAll qs = .error e := by
  cases h : m.readAll qs with
  | error e => exact ⟨e, rfl⟩
  | ok fs =>
    have hmem : m.read q ∈ fs.map some := (Memory.readAll_eq_ok m qs fs).mp h ▸ List.mem_map_of_mem hq
    rw [hnone] at hmem
    simp at hmem

theorem mem_seqRun_outstanding {r : SenderD} {q : Seq32} :
    q ∈ seqRun r.base r.outstanding ↔ r.insideWindow q = true := by
  rw [mem_seqRun r.base q r.outstanding (Nat.le_of_lt (r.nextToSend - r.base).isLt)]
  exact (insideWindow_eq_true r q).symm

section
variable {s : State}

/-- A sequence of the window that has no frame stops SD.TIMEOUT (log entry 24). -/
theorem exec_sdTimeout_of_readAll_error {r : SenderD} {q : Seq32} (hr : s.regs = .senderD r)
    (hout : r.base ≠ r.nextToSend) (hread : r.buffer.readAll (seqRun r.base r.outstanding) = .error q) :
    exec .sdTimeout s = timeoutEvent r.timer s (.fault (.bufferEntryMissing q)) := by
  simp only [exec, execSdTimeout, hr, if_neg hout, hread]

theorem timeoutEvent_eq_fault {t : Timer} {handle : Result} {e : Fault} (h : timeoutEvent t s handle = .fault e) :
    s.running = true ∧ handle = .fault e := by
  cases hrun : s.running with
  | false => exact nomatch (whileRunning_of_stopped hrun _).symm.trans h
  | true =>
    cases he : t.expired with
    | false => exact nomatch (timeoutEvent_of_not_expired hrun he handle).symm.trans h
    | true => exact ⟨rfl, (timeoutEvent_of_expired hrun he handle).symm.trans h⟩

/-- SD.TIMEOUT faults: the instance runs, and a sequence of its window has no frame. -/
theorem exec_sdTimeout_eq_fault {e : Fault} (h : exec .sdTimeout s = .fault e) :
    ∃ (r : SenderD) (q : Seq32), s.regs = .senderD r ∧ s.running = true ∧ r.insideWindow q = true ∧
      r.buffer.read q = none ∧ e = .bufferEntryMissing q := by
  simp only [exec, execSdTimeout] at h
  split at h
  · next r hr =>
    obtain ⟨hrun, h⟩ := timeoutEvent_eq_fault h
    split at h
    · cases h
    · split at h
      · next q hread =>
        cases h
        obtain ⟨hmem, hnone⟩ := Memory.read_eq_none_of_readAll_eq_error hread
        exact ⟨r, q, hr, hrun, mem_seqRun_outstanding.mp hmem, hnone, rfl⟩
      · cases h
  · exact absurd h (misaddressed_ne_fault s e)

/-- What an operation can do other than be misaddressed, it does at its own instance. -/
theorem NeverFaults.of_addressee {i : Instr} {dest : Role × Variant} (ha : addressee i = some dest)
    (h : s.regs.identity = some dest → NeverFaults (exec i s)) : NeverFaults (exec i s) := by
  by_cases hid : s.regs.identity = some dest
  · exact h hid
  · rw [exec_eq_misaddressed ha hid]
    exact .misaddressed s

theorem rxInstr_neverFaults {role : Role} {v : Variant} {f : Frame} (hid : s.regs.identity = some (role, v)) :
    NeverFaults (exec (rxInstr role v f) s) := by
  obtain ⟨handle, hhandle, hexec⟩ := exec_rxInstr_eq_rxEvent hid f
  rw [hexec]
  exact .rxEvent hhandle

theorem sendInstr_neverFaults {data : Frame} {i : Instr} (hi : s.regs.sendInstr data = some i) :
    NeverFaults (exec i s) := by
  obtain ⟨t, hexec⟩ := exec_sendInstr_eq_sendEvent hi
  rw [hexec]
  exact .sendEvent (.next t)

theorem scTimeout_neverFaults : NeverFaults (exec .scTimeout s) :=
  .of_addressee rfl fun hid => by
    obtain ⟨r, hr⟩ := identity_eq_senderC.mp hid
    rw [exec_scTimeout hr]
    exact .timeoutEvent (.next _)

theorem arrival_neverFaults (f : Frame) : NeverFaults (arrival f s) := by
  cases hid : s.regs.identity with
  | none =>
    rw [arrival, identity_eq_none.mp hid]
    exact .misaddressed s
  | some here =>
    rw [arrival_eq_exec_rxInstr f hid]
    exact rxInstr_neverFaults hid

/-- Every instruction but SD.TIMEOUT ends in a next state or a refusal. -/
theorem exec_neverFaults {i : Instr} (hi : i ≠ .sdTimeout) (s : State) : NeverFaults (exec i s) := by
  cases i with
  | csum16 => exact .next _
  | seqEnc | seqDec | reset => exact .ite (.next _) (.refused _)
  | encode => exact .ite (.refused _) (.ite (.refused _) (.ite (.refused _) (.ite (.refused _) (.next _))))
  | decode => exact .onDecoded fun _ => .next _
  | saSend data | sbSend data | scSend data | sdSend data =>
    exact .of_addressee rfl fun hid => sendInstr_neverFaults (data := data) (by rw [Regs.sendInstr, hid])
  | saRx f | raRx f | sbRx f | rbRx f | scRx f | rcRx f | sdRx f | rdRx f =>
    exact .of_addressee rfl (rxInstr_neverFaults (f := f))
  | scTimeout => exact scTimeout_neverFaults
  | sdTimeout => exact absurd rfl hi
  | tmrArm | tmrCancel | tmrRestart | tmrTick => exact NeverFaults.onTimer _ s _
  | shutdown => exact .ite (.next _) (.misaddressed s)
  | aData | aAck | aNak | bData | bAck | bNak | cData | cAck | cNak | dData | dAck | dNak => exact arrival_neverFaults _

/-- A step faults: its instruction does, in a state with the configuration, `running` and registers of `s`. -/
theorem step_eq_fault {e : Fault} (h : step s = .fault e) : ∃ i u, exec i u = .fault e ∧
    u.params = s.params ∧ u.running = s.running ∧ u.regs = s.regs := by
  unfold step at h
  split at h
  · cases h
  · cases h
  · next i u hnext => exact ⟨i, u, h, State.nextInstr_eq_some hnext⟩

/-- An instruction faults: it is SD.TIMEOUT at a sender that runs, and a sequence of the window has no frame. -/
theorem exec_eq_fault {i : Instr} {e : Fault} (h : exec i s = .fault e) : i = .sdTimeout ∧ ∃ (r : SenderD) (q : Seq32),
    s.regs = .senderD r ∧ s.running = true ∧ r.insideWindow q = true ∧ r.buffer.read q = none ∧
      e = .bufferEntryMissing q := by
  obtain rfl : i = .sdTimeout := Decidable.byContradiction fun hi => exec_neverFaults hi s e h
  exact ⟨rfl, exec_sdTimeout_eq_fault h⟩

/-- In a sound state that runs every sequence of the window has a frame (R226 (2)). -/
theorem exec_neverFaults_of_sound (hs : s.Sound) (i : Instr) : NeverFaults (exec i s) := by
  intro e h
  obtain ⟨-, r, q, hr, hrun, hin, hnone, -⟩ := exec_eq_fault h
  have hwindow := ((sound_iff_of_senderD hr).mp hs).window hrun
  exact Bool.eq_false_iff.mp ((SenderD.bufferIsWindow_iff.mp hwindow q).2 hnone) hin

end

/-- Settles O48: SD.TIMEOUT alone can fault (`exec_eq_fault`), and it does when reading the window meets a sequence without a
frame. -/
theorem soundStateNeverFaults : Obligations.SoundStateNeverFaults := by
  refine ⟨fun s hs e h => ?_, fun i s e h => ?_, fun s r i hr hrun he hi hnone => ?_⟩
  · obtain ⟨i, u, hexec, hp, hrun, hregs⟩ := step_eq_fault h
    exact exec_neverFaults_of_sound (hs.of_eq hp hrun hregs) i e hexec
  · obtain ⟨rfl, r, q, hr, -, hin, hnone, rfl⟩ := exec_eq_fault h
    exact ⟨rfl, r, q, hr, hin, hnone, rfl⟩
  · have hmem : r.base + BitVec.ofNat 32 i ∈ seqRun r.base r.outstanding := by
      rw [seqRun_eq]
      exact List.mem_map_of_mem (List.mem_range.mpr hi)
    obtain ⟨q, hread⟩ := Memory.exists_readAll_eq_error hmem hnone
    have hout : r.base ≠ r.nextToSend := (outstanding_pos_iff r).mp (Nat.zero_lt_of_lt hi)
    exact ⟨q, by rw [exec_sdTimeout_of_readAll_error hr hout hread, timeoutEvent_of_expired hrun he]⟩

end Sys2Proof.Machine
end

section
/-! PROOFS. Reset and hazards (70_reset_and_hazards.md): what RESET leaves and that it is sound (R310 to R314), one payload
carried across a perfect channel and its answer back, every list of payloads so delivered (R340), and the payload that
variant B loses when its receiver alone is reset (R324). -/

namespace Sys2Proof.Machine

/-! ### RESET (R310, R312) -/

/-- An instance right after RESET(cfg): `last_packet` and `remaining` are free values, and the ports and the log stay. -/
def State.afterReset (s : State) (cfg : Cfg) : State :=
  { s with
    params := { mss := cfg.mss, n := cfg.n, timeoutTicks := cfg.timeoutTicks }
    running := true
    regs := Regs.initial cfg.role cfg.variant (unspecifiedPacket cfg.variant cfg.mss s.draws)
      (unspecifiedRemaining cfg.timeoutTicks s.draws)
    held := [] }

theorem exec_reset_of_legal {cfg : Cfg} (h : legalCfg cfg = true) (s : State) :
    exec (.reset cfg) s = .next (s.afterReset cfg) :=
  if_pos h

/-- Settles O41: the two registers without a reset value hold free values of their ranges. -/
theorem resetLeavesResetValues : Obligations.ResetLeavesResetValues := by
  intro cfg s hlegal
  refine ⟨_, _, unspecifiedPacket_length cfg.variant cfg.mss s.draws,
    unspecifiedRemaining_le cfg.timeoutTicks s.draws, ?_⟩
  rw [exec_reset_of_legal hlegal]
  rfl

/-- A new instance differs from one that RESET left in the two registers without a reset value only, and of those soundness
asks nothing but that `remaining` is in its range. -/
theorem resetOf_sound {cfg : Cfg} (hlegal : legalCfg cfg = true) : (State.resetOf cfg).Sound := by
  have hsound := sound_of_execReset (exec_reset_of_legal hlegal State.powerOn)
  obtain ⟨v, role, mss, n, ticks⟩ := cfg
  have hidle : Timer.Sound ticks ⟨false, false, 0⟩ := ⟨by simp, Nat.zero_le _, nofun⟩
  cases role with
  | receiver => cases v <;> trivial
  | sender =>
    cases v with
    | a | b => exact nofun
    | c => exact ⟨of_decide_eq_true hlegal, hidle, nofun⟩
    | d => exact (sound_iff_of_senderD rfl).mpr (((sound_iff_of_senderD rfl).mp hsound).withTimer hidle)

/-- The timer's tracking reads neither of the two registers without a reset value. -/
theorem resetOf_tracks {cfg : Cfg} (hlegal : legalCfg cfg = true) : (State.resetOf cfg).TimerTracksOutstanding := by
  have htracks := tracks_of_execReset (exec_reset_of_legal hlegal State.powerOn)
  obtain ⟨v, role, mss, n, ticks⟩ := cfg
  cases role <;> cases v <;> exact htracks

theorem resetOf_sender_canAccept {cfg : Cfg} (hlegal : legalCfg cfg = true) (hrole : cfg.role = .sender) :
    (State.resetOf cfg).canAccept = true := by
  obtain ⟨v, role, mss, n, ticks⟩ := cfg
  cases hrole
  cases v with
  | a | b | c => rfl
  | d =>
    simp only [legalCfg, Bool.and_eq_true, decide_eq_true_eq] at hlegal
    obtain ⟨⟨-, hn⟩, -⟩ := hlegal
    exact (SenderD.windowOpen_iff _ n).mpr hn

theorem resetOf_receiver_expects_zero {cfg : Cfg} (hrole : cfg.role = .receiver) :
    (State.resetOf cfg).regs ∈ [.receiverA, .receiverB 0, .receiverC 0, .receiverD 0] := by
  rw [State.resetOf_regs, hrole]
  cases cfg.variant <;> decide

/-- Settles O42, clause by clause. -/
theorem resetStateIsSoundAndReady : Obligations.ResetStateIsSoundAndReady := fun _ hlegal =>
  ⟨resetOf_sound hlegal, resetOf_tracks hlegal, resetOf_sender_canAccept hlegal, resetOf_receiver_expects_zero⟩

/-! ### One round over a perfect channel -/

/-- `t` has the numeric configuration of `s`, and runs or not as `s` does. -/
structure State.SameSetup (s t : State) : Prop where
  running : t.running = s.running
  params : t.params = s.params

/-- The receiver `t` handles the frame `f` with the outputs `os`, of which `g` is the one frame, and is `t'` then. -/
structure State.Answers (t : State) (f : Frame) (os : List Output) (g : Frame) (t' : State) : Prop where
  handles : arrival f t = .next t'
  outputs : t'.outputs = t.outputs ++ os
  reply : os.filterMap Output.frame = [g]
  setup : t.SameSetup t'

/-- The sender `s` accepts `data` and transmits one frame, the receiver `t` answers it with the outputs `os`, and the
answer completes the SEND and makes the sender transmit nothing: `s'` and `t'` are the two sides then. -/
structure Exchange (s t : State) (data : Frame) (os : List Output) (s' t' : State) : Prop where
  running : s.running = true
  canAccept : s.canAccept = true
  handled : ∃ i u f g tag, s.regs.sendInstr data = some i ∧ exec i s = .next u ∧ u.outputs = s.outputs ++ [.tx f] ∧
    t.Answers f os g t' ∧ arrival g u = .next s' ∧ s'.outputs = u.outputs ++ [.done tag]
  setup : s.SameSetup s'

theorem Session.run_cons {w w' : Session} {a : Action} (h : w.act a = some w') (as : List Action) :
    w.run (a :: as) = w'.run as := by
  rw [Session.run, h]

theorem Session.run_append {w w' : Session} {as : List Action} (h : w.run as = some w') (bs : List Action) :
    w.run (as ++ bs) = w'.run bs := by
  induction as generalizing w with
  | nil => cases h; rfl
  | cons a as ih =>
    rw [Session.run] at h
    split at h
    · cases h
    · next u hact => exact (Session.run_cons hact (as ++ bs)).trans (ih h)

/-- The one frame in flight reaches the receiver unchanged, and what it transmits is in flight then. -/
theorem Session.act_deliverToReceiver_only {w : Session} {f : Frame} {t : State} (hf : w.toReceiver = [f])
    (hs : w.toSender = []) (h : arrival f w.receiver = .next t) : w.act (.deliverToReceiver 0 []) =
      some { w with receiver := t, toReceiver := [], toSender := transmitted w.receiver t } := by
  rw [Session.act_deliverToReceiver (f := f) (changes := []) (by rw [hf]; rfl) (Nat.zero_le 5) h, hf, hs]
  rfl

/-- The one frame in flight reaches the sender unchanged, and what it transmits is in flight then. -/
theorem Session.act_deliverToSender_only {w : Session} {f : Frame} {t : State} (hf : w.toSender = [f])
    (hr : w.toReceiver = []) (h : arrival f w.sender = .next t) : w.act (.deliverToSender 0 []) =
      some { w with sender := t, toReceiver := transmitted w.sender t, toSender := [] } := by
  rw [Session.act_deliverToSender (f := f) (changes := []) (by rw [hf]; rfl) (Nat.zero_le 5) h, hf, hr]
  rfl

namespace Exchange

section
variable {s t s' t' : State} {data : Frame} {os : List Output} (x : Exchange s t data os s' t')
include x

theorem receiver_setup : t.SameSetup t' := by
  obtain ⟨_, _, _, _, _, -, -, -, ha, -⟩ := x.handled
  exact ha.setup

theorem delivered : t'.delivered = t.delivered ++ os.filterMap Output.payload := by
  obtain ⟨_, _, _, _, _, -, -, -, ha, -⟩ := x.handled
  rw [State.delivered, ha.outputs, List.filterMap_append]
  rfl

theorem completions : s'.completions = s.completions + 1 := by
  obtain ⟨_, _, _, _, _, -, -, hdata, -, -, hdone⟩ := x.handled
  simp [State.completions, hdone, hdata, Output.isDone, List.filter_cons]

end

/-- With nothing in flight a round is the exchange, and leaves nothing in flight. -/
theorem run_perfectRound {w : Session} {s' t' : State} {data : Frame} {os : List Output}
    (x : Exchange w.sender w.receiver data os s' t') (hr : w.toReceiver = []) (hs : w.toSender = []) :
    w.run (perfectRound data) = some { w with
      sender := s', receiver := t', toReceiver := [], toSender := [], sent := w.sent ++ [data] } := by
  obtain ⟨i, u, f, g, tag, hi, hsend, hdata, ha, hcomplete, hdone⟩ := x.handled
  have hsent := Session.act_send_of_accepted hi x.running x.canAccept hsend
  rw [transmitted_of_outputs hdata, hr] at hsent
  have hreceived := Session.act_deliverToReceiver_only (w := { w with
    sender := u, toReceiver := [f], sent := w.sent ++ [data] }) rfl hs ha.handles
  rw [transmitted_of_outputs ha.outputs, ha.reply] at hreceived
  have hcompleted := Session.act_deliverToSender_only (w := { w with
    sender := u, receiver := t', toReceiver := [], toSender := [g], sent := w.sent ++ [data] }) rfl rfl hcomplete
  rw [transmitted_of_outputs hdone] at hcompleted
  calc w.run (perfectRound data)
    _ = _ := Session.run_cons hsent _
    _ = _ := Session.run_cons hreceived _
    _ = _ := Session.run_cons hcompleted _

end Exchange

/-! ### The senders' half of a round -/

/-- A control packet is received valid at any MSS. -/
theorem receives_control {s : State} (hrun : s.running = true) {v : Variant} {q : Nat} (kind : Byte)
    (hq : seqInDomain v q = true) : s.Receives v (Codec.control v kind q)
      { kind := kind, seq := (if v = .a then none else some q), checksumOk := true, payload := [] } :=
  receives_encode hrun kind hq (Nat.zero_le _)

theorem seqInDomain_c_toNat (c : BitVec 8) : seqInDomain .c c.toNat = true := decide_eq_true c.isLt

theorem seqInDomain_d_toNat (q : Seq32) : seqInDomain .d q.toNat = true := decide_eq_true q.isLt

/-- The acknowledgment of the one packet of a window empties the buffer and completes that packet's SEND (R222 (e)). -/
theorem exists_acknowledge_accept {r : SenderD} (hb : r.base = r.nextToSend) (hbuf : r.buffer = []) (ticks : Nat)
    (data : Frame) (s : State) : ∃ tm, acknowledge (r.accept ticks data) r.nextToSend s =
      .next ((s.setRegs (.senderD ⟨r.nextToSend + 1, r.nextToSend + 1, [], tm⟩)).emit [.done (some r.nextToSend)]) := by
  have hrun : seqRun (r.accept ticks data).base ((r.nextToSend - (r.accept ticks data).base).toNat + 1) =
      [r.nextToSend] := by
    simp [SenderD.accept, hb, seqRun]
  have herase : (r.accept ticks data).buffer.eraseAll [r.nextToSend] = [] := by
    simp [SenderD.accept, hbuf, Memory.write, Memory.eraseAll, Memory.erase]
  simp only [acknowledge, hrun, herase]
  exact ⟨_, rfl⟩

section
variable {s t t' : State} (hrun : s.running = true) {data : Frame} (hl : data.length ≤ s.params.mss) {os : List Output}
include hrun hl

theorem exists_exchange_senderA {r : SenderA} (hr : s.regs = .senderA r) (hph : r.phase = .idle)
    (ha : t.Answers (Codec.encode .a kindData 0 data) os (Codec.control .a kindAck 0) t') :
    ∃ s' r', Exchange s t data os s' t' ∧ s'.regs = .senderA r' ∧ r'.phase = .idle := by
  have hf := receives_control (s := s.acceptA data) hrun (v := .a) (q := 0) kindAck rfl
  have hack := arrival_senderA_ack (s := s.acceptA data) rfl rfl rfl hf rfl
  exact ⟨_, _, {
    running := hrun
    canAccept := by simp [State.canAccept, hr, hph]
    handled := ⟨.saSend data, _, _, _, _, by rw [hr]; rfl, exec_saSend_of_idle hr hrun hph hl, rfl, ha, hack, rfl⟩
    setup := ⟨rfl, rfl⟩ }, rfl, rfl⟩

theorem exists_exchange_senderB {r : SenderB} (hr : s.regs = .senderB r) (hph : r.phase = .ready)
    (ha : t.Answers (Codec.encode .b kindData r.currentSequence.toNat data) os
      (Codec.control .b kindAck r.currentSequence.toNat) t') :
    ∃ s' r', Exchange s t data os s' t' ∧ s'.regs = .senderB r' ∧ r'.phase = .ready ∧
      r'.currentSequence = flipBit r.currentSequence := by
  have hf := receives_control (s := s.acceptB r data) hrun kindAck (seqInDomain_b_toNat r.currentSequence)
  have hack := arrival_senderB_ack (s := s.acceptB r data) rfl rfl rfl hf rfl rfl
  exact ⟨_, _, {
    running := hrun
    canAccept := (canAccept_senderB hr).mpr hph
    handled := ⟨.sbSend data, _, _, _, _, by rw [hr]; rfl, exec_sbSend_of_ready hr hrun hph hl, rfl, ha, hack, rfl⟩
    setup := ⟨rfl, rfl⟩ }, rfl, rfl, rfl⟩

theorem exists_exchange_senderC {r : SenderC} (hr : s.regs = .senderC r) (hph : r.phase = .ready)
    (ha : t.Answers (Codec.encode .c kindData r.currentSequence.toNat data) os
      (Codec.control .c kindAck r.currentSequence.toNat) t') :
    ∃ s' r', Exchange s t data os s' t' ∧ s'.regs = .senderC r' ∧ r'.phase = .ready ∧
      r'.currentSequence = r.currentSequence + 1 := by
  have hsend : exec (.scSend data) s = .next (s.acceptC r data) := by
    rw [exec_scSend hr, hph]
    exact sendEvent_of_ready hrun hl _
  have hf := receives_control (s := s.acceptC r data) hrun kindAck (seqInDomain_c_toNat r.currentSequence)
  have hack := arrival_senderC_ack (s := s.acceptC r data) rfl rfl rfl hf rfl rfl
  exact ⟨_, _, {
    running := hrun
    canAccept := (canAccept_senderC hr).mpr hph
    handled := ⟨.scSend data, _, _, _, _, by rw [hr]; rfl, hsend, rfl, ha, hack, rfl⟩
    setup := ⟨rfl, rfl⟩ }, rfl, rfl, rfl⟩

theorem exists_exchange_senderD {r : SenderD} (hr : s.regs = .senderD r) (hn : 1 ≤ s.params.n)
    (hb : r.base = r.nextToSend) (hbuf : r.buffer = [])
    (ha : t.Answers (Codec.encode .d kindData r.nextToSend.toNat data) os
      (Codec.control .d kindAck r.nextToSend.toNat) t') :
    ∃ s' r', Exchange s t data os s' t' ∧ s'.regs = .senderD r' ∧ r'.base = r'.nextToSend ∧ r'.buffer = [] ∧
      r'.nextToSend = r.nextToSend + 1 := by
  have hnone : r.outstanding = 0 := (outstanding_eq_zero r).mpr hb
  have hopen : r.windowOpen s.params.n = true := (r.windowOpen_iff _).mpr (by omega)
  have hsend : exec (.sdSend data) s = .next (s.acceptD r data) := by
    rw [exec_sdSend hr, hopen]
    exact sendEvent_of_ready hrun hl _
  have hin : (r.accept s.params.timeoutTicks data).insideWindow r.nextToSend = true :=
    (r.insideWindow_accept _ data (by omega) _).mpr (.inl rfl)
  have hf := receives_control (s := s.acceptD r data) hrun kindAck (seqInDomain_d_toNat r.nextToSend)
  have hack := arrival_senderD_ack (s := s.acceptD r data) rfl rfl hf rfl rfl hin
  obtain ⟨tm, hall⟩ := exists_acknowledge_accept hb hbuf s.params.timeoutTicks data (s.acceptD r data)
  exact ⟨_, _, {
    running := hrun
    canAccept := (canAccept_senderD hr).trans hopen
    handled := ⟨.sdSend data, _, _, _, _, by rw [hr]; rfl, hsend, rfl, ha, hack.trans hall, rfl⟩
    setup := ⟨rfl, rfl⟩ }, rfl, rfl, rfl, rfl⟩

end

/-! ### Both sides in step -/

/-- The sender of variant `v` can accept a SEND and waits for nothing, and the receiver expects the sequence that it sends
next. -/
def InStep (v : Variant) (sender receiver : Regs) : Prop :=
  match v with
  | .a => ∃ r, sender = .senderA r ∧ r.phase = .idle ∧ receiver = .receiverA
  | .b => ∃ r, sender = .senderB r ∧ r.phase = .ready ∧ receiver = .receiverB r.currentSequence
  | .c => ∃ r, sender = .senderC r ∧ r.phase = .ready ∧ receiver = .receiverC r.currentSequence
  | .d => ∃ r, sender = .senderD r ∧ r.base = r.nextToSend ∧ r.buffer = [] ∧ receiver = .receiverD r.nextToSend

theorem inStep_initial (v : Variant) (lp lp' : Frame) (left left' : Nat) :
    InStep v (.initial .sender v lp left) (.initial .receiver v lp' left') := by
  cases v with
  | a | b | c => exact ⟨_, rfl, rfl, rfl⟩
  | d => exact ⟨_, rfl, rfl, rfl, rfl⟩

theorem InStep.sendPending {v : Variant} {sender receiver : Regs} (h : InStep v sender receiver) :
    sender.sendPending = false := by
  cases v with
  | a | b | c =>
    obtain ⟨r, rfl, hph, -⟩ := h
    simp [Regs.sendPending, hph]
  | d =>
    obtain ⟨r, rfl, -, hbuf, -⟩ := h
    exact (sendPending_senderD_eq_false r).mpr hbuf

/-- Two sides in step deliver the payload, complete the SEND, and are in step again. -/
theorem InStep.exists_exchange {v : Variant} {s t : State} (h : InStep v s.regs t.regs) (hs : s.running = true)
    (ht : t.running = true) (hn : 1 ≤ s.params.n) {data : Frame} (hls : data.length ≤ s.params.mss)
    (hlt : data.length ≤ t.params.mss) :
    ∃ s' t' g, Exchange s t data [.deliver data, .tx g] s' t' ∧ InStep v s'.regs t'.regs := by
  cases v with
  | a =>
    obtain ⟨r, hr, hph, he⟩ := h
    obtain ⟨s', r', x, hr', hph'⟩ := exists_exchange_senderA hs hls hr hph
      ⟨arrival_receiverA_data rfl he (receives_encode ht kindData rfl hlt) rfl, rfl, rfl, rfl, rfl⟩
    exact ⟨s', _, _, x, r', hr', hph', he⟩
  | b =>
    obtain ⟨r, hr, hph, he⟩ := h
    obtain ⟨s', r', x, hr', hph', hq⟩ := exists_exchange_senderB hs hls hr hph
      ⟨arrival_receiverB_data rfl he (receives_encode ht kindData (seqInDomain_b_toNat _) hlt) rfl rfl,
        rfl, rfl, rfl, rfl⟩
    exact ⟨s', _, _, x, r', hr', hph', by rw [hq]; rfl⟩
  | c =>
    obtain ⟨r, hr, hph, he⟩ := h
    obtain ⟨s', r', x, hr', hph', hq⟩ := exists_exchange_senderC hs hls hr hph
      ⟨arrival_receiverC_data rfl he (receives_encode ht kindData (seqInDomain_c_toNat _) hlt) rfl rfl,
        rfl, rfl, rfl, rfl⟩
    exact ⟨s', _, _, x, r', hr', hph', by rw [hq]; rfl⟩
  | d =>
    obtain ⟨r, hr, hb, hbuf, he⟩ := h
    obtain ⟨s', r', x, hr', hb', hbuf', hq⟩ := exists_exchange_senderD hs hls hr hn hb hbuf
      ⟨arrival_receiverD_data rfl he (receives_encode ht kindData (seqInDomain_d_toNat _) hlt) rfl rfl,
        rfl, rfl, rfl, rfl⟩
    exact ⟨s', _, _, x, r', hr', hb', hbuf', by rw [hq]; rfl⟩

/-! ### Round after round (R340) -/

/-- Both sides run under one configuration and are in step, nothing is in flight, and what was sent is `payloads`: delivered,
and each SEND completed. -/
structure Session.AtRest (v : Variant) (p : Params) (payloads : List Frame) (w : Session) : Prop where
  sender_running : w.sender.running = true
  receiver_running : w.receiver.running = true
  sender_params : w.sender.params = p
  receiver_params : w.receiver.params = p
  inStep : InStep v w.sender.regs w.receiver.regs
  toReceiver : w.toReceiver = []
  toSender : w.toSender = []
  sent : w.sent = payloads
  delivered : w.receiver.delivered = payloads
  completions : w.sender.completions = payloads.length

namespace Session.AtRest
variable {v : Variant} {p : Params} {payloads : List Frame} {w : Session}

theorem allDelivered (h : w.AtRest v p payloads) : w.AllDelivered payloads :=
  ⟨h.sent, h.delivered, h.completions, h.inStep.sendPending⟩

theorem exists_run_perfectRound (h : w.AtRest v p payloads) (hn : 1 ≤ p.n) {data : Frame} (hl : data.length ≤ p.mss) :
    ∃ w', w.run (perfectRound data) = some w' ∧ w'.AtRest v p (payloads ++ [data]) := by
  obtain ⟨s', t', g, x, hstep⟩ := h.inStep.exists_exchange h.sender_running h.receiver_running
    (by rwa [h.sender_params]) (by rwa [h.sender_params]) (by rwa [h.receiver_params])
  exact ⟨_, x.run_perfectRound h.toReceiver h.toSender, {
    sender_running := x.setup.running.trans h.sender_running
    receiver_running := x.receiver_setup.running.trans h.receiver_running
    sender_params := x.setup.params.trans h.sender_params
    receiver_params := x.receiver_setup.params.trans h.receiver_params
    inStep := hstep
    toReceiver := rfl
    toSender := rfl
    sent := congrArg (· ++ [data]) h.sent
    delivered := x.delivered.trans (congrArg (· ++ [data]) h.delivered)
    completions := by rw [x.completions, h.completions, List.length_append]; rfl }⟩

theorem exists_run_perfectRounds (h : w.AtRest v p payloads) (hn : 1 ≤ p.n) {more : List Frame}
    (hl : ∀ d ∈ more, d.length ≤ p.mss) :
    ∃ w', w.run (more.flatMap perfectRound) = some w' ∧ w'.AtRest v p (payloads ++ more) := by
  induction more generalizing w payloads with
  | nil => exact ⟨w, rfl, (List.append_nil payloads).symm ▸ h⟩
  | cons d ds ih =>
    obtain ⟨w₁, hround, h₁⟩ := h.exists_run_perfectRound hn (hl d (List.mem_cons_self ..))
    obtain ⟨w', hrest, h'⟩ := ih h₁ fun e he => hl e (List.mem_cons_of_mem d he)
    rw [List.append_assoc] at h'
    exact ⟨w', (Session.run_append hround _).trans hrest, h'⟩

end Session.AtRest

/-! ### The start: RESET of each side (R294, R302, R320) -/

theorem legalCfg_of_ranges {cfg : Cfg} (ht : 1 ≤ cfg.timeoutTicks) (hn : 1 ≤ cfg.n) (hn' : cfg.n ≤ 2 ^ 32 - 1) :
    legalCfg cfg = true := by
  unfold legalCfg
  split
  · exact decide_eq_true ht
  · simp only [Bool.and_eq_true, decide_eq_true_eq]
    exact ⟨⟨ht, hn⟩, hn'⟩
  · rfl

section
variable (w : Session) {cfg : Cfg} (hlegal : legalCfg cfg = true)
include hlegal

theorem Session.act_reset_sender (hrole : cfg.role = .sender) :
    w.act (.reset .sender cfg) = some { w with sender := w.sender.afterReset cfg } := by
  have hquiet : transmitted w.sender (w.sender.afterReset cfg) = [] := transmitted_of_outputs_eq rfl
  simp [Session.act, hrole, Session.afterSender, exec_reset_of_legal hlegal, hquiet]

theorem Session.act_reset_receiver (hrole : cfg.role = .receiver) :
    w.act (.reset .receiver cfg) = some { w with receiver := w.receiver.afterReset cfg } := by
  have hquiet : transmitted w.receiver (w.receiver.afterReset cfg) = [] := transmitted_of_outputs_eq rfl
  simp [Session.act, hrole, Session.afterReceiver, exec_reset_of_legal hlegal, hquiet]

end

theorem atRest_fresh (v : Variant) (p : Params) : (Session.fresh v p).AtRest v p [] :=
  ⟨rfl, rfl, rfl, rfl, inStep_initial v _ _ _ _, rfl, rfl, rfl, rfl, rfl⟩

/-- Two instances after their first RESETs, in whatever order these came. -/
def Session.started (v : Variant) (p : Params) : Session :=
  { Session.powerOn with
    sender := State.powerOn.afterReset (sideCfg .sender v p)
    receiver := State.powerOn.afterReset (sideCfg .receiver v p) }

theorem atRest_started (v : Variant) (p : Params) : (Session.started v p).AtRest v p [] :=
  ⟨rfl, rfl, rfl, rfl, inStep_initial v _ _ _ _, rfl, rfl, rfl, rfl, rfl⟩

theorem run_resets_eq_started {v : Variant} {p : Params} (hlegal : ∀ side, legalCfg (sideCfg side v p) = true)
    {start : List Action} (hstart : start = [.resetFor .sender v p, .resetFor .receiver v p] ∨
      start = [.resetFor .receiver v p, .resetFor .sender v p]) :
    Session.powerOn.run start = some (Session.started v p) := by
  have hs (w : Session) := Session.run_cons (Session.act_reset_sender w (hlegal .sender) rfl)
  have hr (w : Session) := Session.run_cons (Session.act_reset_receiver w (hlegal .receiver) rfl)
  obtain rfl | rfl := hstart
  · exact (hs _ _).trans (hr _ _)
  · exact (hr _ _).trans (hs _ _)

/-- Settles O54: both kinds of start leave the two sides at rest, and each round carries one payload more from rest to
rest. -/
theorem perfectChannelDeliversAll : Obligations.PerfectChannelDeliversAll := by
  intro v p payloads ht hn hn' hl
  have hall {w : Session} (h : w.AtRest v p []) :
      ∃ w', w.run (payloads.flatMap perfectRound) = some w' ∧ w'.AllDelivered payloads :=
    (h.exists_run_perfectRounds hn hl).imp fun _ ⟨hrun, hrest⟩ => ⟨hrun, hrest.allDelivered⟩
  refine ⟨hall (atRest_fresh v p), fun start hstart => ?_⟩
  rw [Session.run_append (run_resets_eq_started (fun _ => legalCfg_of_ranges ht hn hn') hstart)]
  exact hall (atRest_started v p)

/-! ### One side reset alone (R324) -/

/-- DATA of the sequence that the receiver does not expect is a duplicate: it is acknowledged and not delivered (R184
(e)). -/
theorem answers_duplicate {t : State} {e : BitVec 1} (hr : t.regs = .receiverB e) (hrun : t.running = true)
    {data : Frame} (hl : data.length ≤ t.params.mss) :
    t.Answers (Codec.encode .b kindData (flipBit e).toNat data) [.tx (Codec.control .b kindAck (flipBit e).toNat)]
      (Codec.control .b kindAck (flipBit e).toNat)
      (t.emit [.tx (Codec.control .b kindAck (flipBit e).toNat)]) where
  handles := arrival_receiverB_other hr (receives_encode hrun kindData (seqInDomain_b_toNat _) hl) rfl rfl
    fun h => toNat_ne_flipBit_toNat e (Option.some.inj h).symm
  outputs := rfl
  reply := rfl
  setup := ⟨rfl, rfl⟩

/-- Settles O59: for the reset receiver, which expects 0, DATA of sequence 1 is a duplicate. -/
theorem oneSidedResetLosesSilentlyInB : Obligations.OneSidedResetLosesSilentlyInB := by
  intro p data w r hl hp hrun hr hph hq hout hback
  subst hp
  have hflip : r.currentSequence = flipBit 0 := hq
  have hreset := Session.act_reset_receiver w (cfg := sideCfg .receiver .b w.sender.params) rfl rfl
  have hanswer := answers_duplicate (t := w.receiver.afterReset (sideCfg .receiver .b w.sender.params)) rfl rfl hl
  rw [← hflip] at hanswer
  obtain ⟨s', r', x, hr', hph', -⟩ := exists_exchange_senderB hrun hl hr hph hanswer
  refine Session.exists_run_cons hreset ⟨_, x.run_perfectRound hout hback, rfl, x.completions, ?_, ?_⟩
  · exact x.delivered.trans (List.append_nil _)
  · simp [hr', Regs.sendPending, hph']

end Sys2Proof.Machine
end
